-- ==== Sys2Proof/Word.lean ====
section
/-! DEFINITION. The word types of the core (spec/00_scope.md R6, R7): every value is an unsigned integer of a
stated width, so plain bit vectors; register numbers and array indexes are bounded naturals. -/

namespace Sys2Proof

/-- A byte: a general register, a timer, a memory cell, the stack pointer (R13, R18, R20, R25). -/
abbrev Byte := BitVec 8

/-- A 16-bit word: `I`, `PC`, a stack entry, an opcode (R15, R16, R19, R50). -/
abbrev Word := BitVec 16

/-- The 12-bit field `nnn` (R10). -/
abbrev Addr := BitVec 12

/-- A 4-bit field that is not a register number: the count `n`, the ignored nibble of family 9 (R10, R59). -/
abbrev Nibble := BitVec 4

/-- A register number, the field `x` or `y` (R10, R13): `V[0]` to `V[15]`. -/
abbrev Reg := Fin 16

/-- The number of `VF`, which is `V[15]` and nothing else (R14). -/
abbrev regF : Reg := 15

end Sys2Proof
end

