-- ==== Sys2Proof/Config.lean ====
section
/-! DEFINITION. What is fixed for a session or lies outside the rules: the arguments of reset
(spec/00_scope.md R6, spec/70_reset_and_hazards.md R132), their defaults, and the random source
(spec/43_random.md R91). -/

namespace Sys2Proof

/-- The font as the spec lays it out: 16 glyphs of 5 bytes (spec/20_memory.md R44). -/
abbrev Font := Vector (Vector Byte 5) 16

namespace Config

/-- The random source: the value of the `k`-th draw. FREE VALUE (log entry 4): no body, so nothing can be proved
of a draw but that it is one byte; R91 makes it any value 0 to 255 under no law. -/
opaque randomDraw : Nat → Byte

/-- The default of the parameter `FONT` (R45). DESIGN CHOICE (log entry 3): only glyph "1" is the source's. -/
def font : Font := #v[
  #v[0xF0, 0x90, 0x90, 0x90, 0xF0],
  #v[0x20, 0x60, 0x20, 0x20, 0x70],
  #v[0xF0, 0x10, 0xF0, 0x80, 0xF0],
  #v[0xF0, 0x10, 0xF0, 0x10, 0xF0],
  #v[0x90, 0x90, 0xF0, 0x10, 0x10],
  #v[0xF0, 0x80, 0xF0, 0x10, 0xF0],
  #v[0xF0, 0x80, 0xF0, 0x90, 0xF0],
  #v[0xF0, 0x10, 0x20, 0x40, 0x40],
  #v[0xF0, 0x90, 0xF0, 0x90, 0xF0],
  #v[0xF0, 0x90, 0xF0, 0x10, 0xF0],
  #v[0xF0, 0x90, 0xF0, 0x90, 0x90],
  #v[0xE0, 0x90, 0xE0, 0x90, 0xE0],
  #v[0xF0, 0x80, 0x80, 0x80, 0xF0],
  #v[0xE0, 0x90, 0x90, 0x90, 0xE0],
  #v[0xF0, 0x80, 0xF0, 0x80, 0xF0],
  #v[0xF0, 0x80, 0xF0, 0x80, 0x80]]

/-- The five bytes of glyph "1", the only ones the source states (R45, R64). -/
def glyphOne : Vector Byte 5 := #v[0x20, 0x60, 0x20, 0x20, 0x70]

/-- The default instruction period, 1/500 second per cycle (R27). -/
def defaultPeriod : Rat := { num := 1, den := 500 }

end Config

/-- The argument `cfg` of the reset transaction: `P`, the three mode flags (R132), and the `FONT` parameter of R6. -/
structure SessionConfig where
  period : Rat
  loadStoreQuirk : Bool
  shiftQuirk : Bool
  wrapping : Bool
  font : Font
  deriving DecidableEq, Repr

/-- The configuration that `State.reset` stands for. The period is the stated default (R27); the flags have none
(R26, D21): false for all three is a DESIGN CHOICE (log entry 2); the font is the default table (log entry 3). -/
def SessionConfig.default : SessionConfig where
  period := Config.defaultPeriod
  loadStoreQuirk := false
  shiftQuirk := false
  wrapping := false
  font := Config.font

end Sys2Proof
end

