-- ==== Sys2Proof/Syntax.lean ====
section
/-! DEFINITION. The instructions of the core: one constructor per row of the opcode map
(spec/30_encoding.md R56, spec/opcode_table.json), its arguments the fields of the row's format (R52). -/

namespace Sys2Proof

/-- The 35 instructions, in the order of the opcode map (R56). -/
inductive Instr where
  /-- `0000` NOP (R101). -/
  | nop
  /-- `00E0` CLS (R100). -/
  | cls
  /-- `00EE` RET (R68). -/
  | ret
  /-- `1nnn` JP nnn (R66). -/
  | jp (nnn : Addr)
  /-- `2nnn` CALL nnn (R67). -/
  | call (nnn : Addr)
  /-- `3xkk` SE Vx, kk (R71). -/
  | seImm (x : Reg) (kk : Byte)
  /-- `4xkk` SNE Vx, kk (R72). -/
  | sneImm (x : Reg) (kk : Byte)
  /-- `5xy0` SE Vx, Vy (R73). -/
  | seReg (x y : Reg)
  /-- `6xkk` LD Vx, kk (R80). -/
  | ldImm (x : Reg) (kk : Byte)
  /-- `7xkk` ADD Vx, kk (R81). -/
  | addImm (x : Reg) (kk : Byte)
  /-- `8xy0` LD Vx, Vy (R82). -/
  | ldReg (x y : Reg)
  /-- `8xy1` OR Vx, Vy (R83). -/
  | orReg (x y : Reg)
  /-- `8xy2` AND Vx, Vy (R84). -/
  | andReg (x y : Reg)
  /-- `8xy3` XOR Vx, Vy (R85). -/
  | xorReg (x y : Reg)
  /-- `8xy4` ADD Vx, Vy (R86). -/
  | addReg (x y : Reg)
  /-- `8xy5` SUB Vx, Vy (R87). -/
  | subReg (x y : Reg)
  /-- `8xy6` SHR Vx, Vy (R88). -/
  | shr (x y : Reg)
  /-- `8xy7` SUBN Vx, Vy (R89). -/
  | subn (x y : Reg)
  /-- `8xyE` SHL Vx, Vy (R90). -/
  | shl (x y : Reg)
  /-- `9xyN` SNE Vx, Vy (R74); `ignored` is the low nibble `N`, which family 9 does not decode (R59). -/
  | sneReg (x y : Reg) (ignored : Nibble)
  /-- `Annn` LD I, nnn (R103). -/
  | ldI (nnn : Addr)
  /-- `Bnnn` JP V0, nnn (R69). -/
  | jpV0 (nnn : Addr)
  /-- `Cxkk` RND Vx, kk (R92). -/
  | rnd (x : Reg) (kk : Byte)
  /-- `Dxyn` DRW Vx, Vy, n (R94). -/
  | drw (x y : Reg) (n : Nibble)
  /-- `Ex9E` SKP Vx (R75). -/
  | skp (x : Reg)
  /-- `ExA1` SKNP Vx (R76). -/
  | sknp (x : Reg)
  /-- `Fx07` LD Vx, DT (R106). -/
  | ldFromDt (x : Reg)
  /-- `Fx0A` LD Vx, K (R99). -/
  | ldKey (x : Reg)
  /-- `Fx15` LD DT, Vx (R107). -/
  | ldDt (x : Reg)
  /-- `Fx18` LD ST, Vx (R108). -/
  | ldSt (x : Reg)
  /-- `Fx1E` ADD I, Vx (R104). -/
  | addI (x : Reg)
  /-- `Fx29` LD F, Vx (R105). -/
  | ldFont (x : Reg)
  /-- `Fx33` LD B, Vx (R98). -/
  | ldBcd (x : Reg)
  /-- `Fx55` LD [I], Vx (R96). -/
  | storeRegs (x : Reg)
  /-- `Fx65` LD Vx, [I] (R97). -/
  | loadRegs (x : Reg)
  deriving DecidableEq, Repr

end Sys2Proof
end

