-- ==== Sys2Proof/WellFormed.lean ====
section
/-! DEFINITION. What makes an instruction, and what makes an argument of a host transaction, well-formed. -/

namespace Sys2Proof

/-- Every instruction of the syntax is well-formed: each field's type holds exactly the values its format has, and
"all sixteen values are legal in every instruction that has the field" (R53), "every value of every field is legal"
(R59), so no check is left (log entry 22). -/
def Instr.wellFormed : Instr → Bool
  | .nop | .cls | .ret => true
  | .jp _ | .call _ | .ldI _ | .jpV0 _ => true
  | .seImm _ _ | .sneImm _ _ | .ldImm _ _ | .addImm _ _ | .rnd _ _ => true
  | .seReg _ _ | .ldReg _ _ | .orReg _ _ | .andReg _ _ | .xorReg _ _ => true
  | .addReg _ _ | .subReg _ _ | .shr _ _ | .subn _ _ | .shl _ _ => true
  | .sneReg _ _ _ | .drw _ _ _ => true
  | .skp _ | .sknp _ => true
  | .ldFromDt _ | .ldKey _ | .ldDt _ | .ldSt _ | .addI _ => true
  | .ldFont _ | .ldBcd _ | .storeRegs _ | .loadRegs _ => true

/-- A period is a positive rational (R27); any other is outside the interface (R123, D17). -/
def periodOk (p : Rat) : Bool := decide (0 < p)

/-- A font carries the stated glyph "1" in its bytes 5 to 9 (R6, R45). -/
def fontOk (f : Font) : Bool := decide (f[1] = Config.glyphOne)

/-- A configuration that reset accepts. -/
def SessionConfig.wellFormed (c : SessionConfig) : Bool := periodOk c.period && fontOk c.font

/-- An elapsed time is not negative (R123, D17). -/
def elapsedOk (dt : Rat) : Bool := decide (0 ≤ dt)

/-- An image of `len` bytes fits from 0x200 below 0x1000 (R134). -/
def imageFits (len : Nat) : Bool := decide (0x200 + len ≤ 0x1000)

/-- A logical key number is 0 to 15 (R126). -/
def keyOk (k : Nat) : Bool := decide (k ≤ 15)

end Sys2Proof
end

