-- ==== Sys2Proof/Decode.lean ====
section
/-! DEFINITION. Fields of an opcode, the decoder (spec/30_encoding.md R50 to R54, R58 to R60), the opcode map of
R56, and the encoder written from the same formats. -/

namespace Sys2Proof

/-! ## Fields (R10, R53) -/

/-- The high nibble `op[15:12]`, the family (R11, R54). -/
def opFamily (op : Word) : Nibble := op.extractLsb' 12 4

/-- `x = op[11:8]`. -/
def opX (op : Word) : Reg := (op.extractLsb' 8 4).toFin

/-- `y = op[7:4]`. -/
def opY (op : Word) : Reg := (op.extractLsb' 4 4).toFin

/-- `n = op[3:0]`. -/
def opN (op : Word) : Nibble := op.extractLsb' 0 4

/-- `kk = op[7:0]`. -/
def opKK (op : Word) : Byte := op.extractLsb' 0 8

/-- `nnn = op[11:0]`. -/
def opNNN (op : Word) : Addr := op.extractLsb' 0 12

/-- Two bytes as an opcode, the byte at the lower address in bits 15:8 (R38). -/
def opOfBytes (hi lo : Byte) : Word := hi ++ lo

/-- Bits 15:8 of an opcode, the byte at the lower address (R38). -/
def opHigh (op : Word) : Byte := op.extractLsb' 8 8

/-- Bits 7:0 of an opcode, the byte at the higher address (R38). -/
def opLow (op : Word) : Byte := op.extractLsb' 0 8

/-! ## Decoder -/

/-- Why bytes are no instruction. -/
inductive DecodeError where
  /-- No instruction matches the word (R58). -/
  | unknownOpcode (op : Word)
  /-- Fewer than two bytes are left: every instruction is one 16-bit word (R50). -/
  | truncated
  deriving DecidableEq, Repr

/-- Family `0x0` is matched on the whole word (R54). -/
def decodeFamily0 (op : Word) : Option Instr :=
  match op with
  | 0x0000#16 => some .nop
  | 0x00E0#16 => some .cls
  | 0x00EE#16 => some .ret
  | _ => none

/-- Family `0x5` is matched on the low nibble (R54). -/
def decodeFamily5 (op : Word) : Option Instr :=
  match opN op with
  | 0x0#4 => some (.seReg (opX op) (opY op))
  | _ => none

/-- Family `0x8` is matched on the low nibble (R54). -/
def decodeFamily8 (op : Word) : Option Instr :=
  match opN op with
  | 0x0#4 => some (.ldReg (opX op) (opY op))
  | 0x1#4 => some (.orReg (opX op) (opY op))
  | 0x2#4 => some (.andReg (opX op) (opY op))
  | 0x3#4 => some (.xorReg (opX op) (opY op))
  | 0x4#4 => some (.addReg (opX op) (opY op))
  | 0x5#4 => some (.subReg (opX op) (opY op))
  | 0x6#4 => some (.shr (opX op) (opY op))
  | 0x7#4 => some (.subn (opX op) (opY op))
  | 0xE#4 => some (.shl (opX op) (opY op))
  | _ => none

/-- Family `0xE` is matched on the low byte (R54). -/
def decodeFamilyE (op : Word) : Option Instr :=
  match opKK op with
  | 0x9E#8 => some (.skp (opX op))
  | 0xA1#8 => some (.sknp (opX op))
  | _ => none

/-- Family `0xF` is matched on the low byte (R54). -/
def decodeFamilyF (op : Word) : Option Instr :=
  match opKK op with
  | 0x07#8 => some (.ldFromDt (opX op))
  | 0x0A#8 => some (.ldKey (opX op))
  | 0x15#8 => some (.ldDt (opX op))
  | 0x18#8 => some (.ldSt (opX op))
  | 0x1E#8 => some (.addI (opX op))
  | 0x29#8 => some (.ldFont (opX op))
  | 0x33#8 => some (.ldBcd (opX op))
  | 0x55#8 => some (.storeRegs (opX op))
  | 0x65#8 => some (.loadRegs (opX op))
  | _ => none

/-- The instruction a word selects, if any: by its family, and in five families by more of the word (R54). -/
def selectInstr (op : Word) : Option Instr :=
  match opFamily op with
  | 0x0#4 => decodeFamily0 op
  | 0x1#4 => some (.jp (opNNN op))
  | 0x2#4 => some (.call (opNNN op))
  | 0x3#4 => some (.seImm (opX op) (opKK op))
  | 0x4#4 => some (.sneImm (opX op) (opKK op))
  | 0x5#4 => decodeFamily5 op
  | 0x6#4 => some (.ldImm (opX op) (opKK op))
  | 0x7#4 => some (.addImm (opX op) (opKK op))
  | 0x8#4 => decodeFamily8 op
  | 0x9#4 => some (.sneReg (opX op) (opY op) (opN op))
  | 0xA#4 => some (.ldI (opNNN op))
  | 0xB#4 => some (.jpV0 (opNNN op))
  | 0xC#4 => some (.rnd (opX op) (opKK op))
  | 0xD#4 => some (.drw (opX op) (opY op) (opN op))
  | 0xE#4 => decodeFamilyE op
  | 0xF#4 => decodeFamilyF op
  | _ => none

/-- Decode one word: an instruction, or `UnknownOpcode(op)` (R54, R60). -/
def decodeWord (op : Word) : Except DecodeError Instr :=
  match selectInstr op with
  | some i => .ok i
  | none => .error (.unknownOpcode op)

/-- Decode the first instruction of a list of bytes as memory holds them, and return the bytes after it. -/
def decodeBytes : List Byte → Except DecodeError (Instr × List Byte)
  | hi :: lo :: rest =>
    match decodeWord (opOfBytes hi lo) with
    | .ok i => .ok (i, rest)
    | .error e => .error e
  | _ => .error .truncated

/-! ## The opcode map (R56) -/

/-- One row of the opcode map: a word belongs to it when `(op and mask) = bits`. -/
structure OpcodeRow where
  pattern : String
  bits : Word
  mask : Word
  deriving DecidableEq, Repr

/-- A word belongs to a row. -/
def OpcodeRow.covers (r : OpcodeRow) (op : Word) : Bool := (op &&& r.mask) == r.bits

/-- The row of an instruction in the opcode map (R56). -/
def Instr.row : Instr → OpcodeRow
  | .nop => ⟨"0000", 0x0000, 0xFFFF⟩
  | .cls => ⟨"00E0", 0x00E0, 0xFFFF⟩
  | .ret => ⟨"00EE", 0x00EE, 0xFFFF⟩
  | .jp _ => ⟨"1nnn", 0x1000, 0xF000⟩
  | .call _ => ⟨"2nnn", 0x2000, 0xF000⟩
  | .seImm _ _ => ⟨"3xkk", 0x3000, 0xF000⟩
  | .sneImm _ _ => ⟨"4xkk", 0x4000, 0xF000⟩
  | .seReg _ _ => ⟨"5xy0", 0x5000, 0xF00F⟩
  | .ldImm _ _ => ⟨"6xkk", 0x6000, 0xF000⟩
  | .addImm _ _ => ⟨"7xkk", 0x7000, 0xF000⟩
  | .ldReg _ _ => ⟨"8xy0", 0x8000, 0xF00F⟩
  | .orReg _ _ => ⟨"8xy1", 0x8001, 0xF00F⟩
  | .andReg _ _ => ⟨"8xy2", 0x8002, 0xF00F⟩
  | .xorReg _ _ => ⟨"8xy3", 0x8003, 0xF00F⟩
  | .addReg _ _ => ⟨"8xy4", 0x8004, 0xF00F⟩
  | .subReg _ _ => ⟨"8xy5", 0x8005, 0xF00F⟩
  | .shr _ _ => ⟨"8xy6", 0x8006, 0xF00F⟩
  | .subn _ _ => ⟨"8xy7", 0x8007, 0xF00F⟩
  | .shl _ _ => ⟨"8xyE", 0x800E, 0xF00F⟩
  | .sneReg _ _ _ => ⟨"9xy0", 0x9000, 0xF000⟩
  | .ldI _ => ⟨"Annn", 0xA000, 0xF000⟩
  | .jpV0 _ => ⟨"Bnnn", 0xB000, 0xF000⟩
  | .rnd _ _ => ⟨"Cxkk", 0xC000, 0xF000⟩
  | .drw _ _ _ => ⟨"Dxyn", 0xD000, 0xF000⟩
  | .skp _ => ⟨"Ex9E", 0xE09E, 0xF0FF⟩
  | .sknp _ => ⟨"ExA1", 0xE0A1, 0xF0FF⟩
  | .ldFromDt _ => ⟨"Fx07", 0xF007, 0xF0FF⟩
  | .ldKey _ => ⟨"Fx0A", 0xF00A, 0xF0FF⟩
  | .ldDt _ => ⟨"Fx15", 0xF015, 0xF0FF⟩
  | .ldSt _ => ⟨"Fx18", 0xF018, 0xF0FF⟩
  | .addI _ => ⟨"Fx1E", 0xF01E, 0xF0FF⟩
  | .ldFont _ => ⟨"Fx29", 0xF029, 0xF0FF⟩
  | .ldBcd _ => ⟨"Fx33", 0xF033, 0xF0FF⟩
  | .storeRegs _ => ⟨"Fx55", 0xF055, 0xF0FF⟩
  | .loadRegs _ => ⟨"Fx65", 0xF065, 0xF0FF⟩

/-- The whole opcode map: the row of one instruction per constructor, in the order of R56. -/
def opcodeMap : List OpcodeRow :=
  [Instr.nop, .cls, .ret, .jp 0, .call 0, .seImm 0 0, .sneImm 0 0, .seReg 0 0, .ldImm 0 0, .addImm 0 0].map Instr.row
  ++ [Instr.ldReg 0 0, .orReg 0 0, .andReg 0 0, .xorReg 0 0, .addReg 0 0, .subReg 0 0, .shr 0 0, .subn 0 0,
      .shl 0 0, .sneReg 0 0 0].map Instr.row
  ++ [Instr.ldI 0, .jpV0 0, .rnd 0 0, .drw 0 0 0, .skp 0, .sknp 0].map Instr.row
  ++ [Instr.ldFromDt 0, .ldKey 0, .ldDt 0, .ldSt 0, .addI 0, .ldFont 0, .ldBcd 0, .storeRegs 0, .loadRegs 0].map
      Instr.row

/-! ## Encoder, by format (R52) -/

/-- Format `NNN`. -/
def encodeNNN (family : Nibble) (nnn : Addr) : Word := family ++ nnn

/-- Format `XKK`. -/
def encodeXKK (family : Nibble) (x : Reg) (kk : Byte) : Word := family ++ BitVec.ofFin (w := 4) x ++ kk

/-- Formats `XY` and `XYN`: the last nibble is the sub-opcode, the ignored nibble, or `n`. -/
def encodeXYN (family : Nibble) (x y : Reg) (n : Nibble) : Word :=
  family ++ BitVec.ofFin (w := 4) x ++ BitVec.ofFin (w := 4) y ++ n

/-- Format `X`: the low byte is all sub-opcode (R53). -/
def encodeX (family : Nibble) (x : Reg) (low : Byte) : Word := family ++ BitVec.ofFin (w := 4) x ++ low

/-- The word of an instruction. -/
def encode : Instr → Word
  | .nop => 0x0000
  | .cls => 0x00E0
  | .ret => 0x00EE
  | .jp nnn => encodeNNN 0x1 nnn
  | .call nnn => encodeNNN 0x2 nnn
  | .seImm x kk => encodeXKK 0x3 x kk
  | .sneImm x kk => encodeXKK 0x4 x kk
  | .seReg x y => encodeXYN 0x5 x y 0x0
  | .ldImm x kk => encodeXKK 0x6 x kk
  | .addImm x kk => encodeXKK 0x7 x kk
  | .ldReg x y => encodeXYN 0x8 x y 0x0
  | .orReg x y => encodeXYN 0x8 x y 0x1
  | .andReg x y => encodeXYN 0x8 x y 0x2
  | .xorReg x y => encodeXYN 0x8 x y 0x3
  | .addReg x y => encodeXYN 0x8 x y 0x4
  | .subReg x y => encodeXYN 0x8 x y 0x5
  | .shr x y => encodeXYN 0x8 x y 0x6
  | .subn x y => encodeXYN 0x8 x y 0x7
  | .shl x y => encodeXYN 0x8 x y 0xE
  | .sneReg x y ignored => encodeXYN 0x9 x y ignored
  | .ldI nnn => encodeNNN 0xA nnn
  | .jpV0 nnn => encodeNNN 0xB nnn
  | .rnd x kk => encodeXKK 0xC x kk
  | .drw x y n => encodeXYN 0xD x y n
  | .skp x => encodeX 0xE x 0x9E
  | .sknp x => encodeX 0xE x 0xA1
  | .ldFromDt x => encodeX 0xF x 0x07
  | .ldKey x => encodeX 0xF x 0x0A
  | .ldDt x => encodeX 0xF x 0x15
  | .ldSt x => encodeX 0xF x 0x18
  | .addI x => encodeX 0xF x 0x1E
  | .ldFont x => encodeX 0xF x 0x29
  | .ldBcd x => encodeX 0xF x 0x33
  | .storeRegs x => encodeX 0xF x 0x55
  | .loadRegs x => encodeX 0xF x 0x65

/-- The bytes of an instruction as memory holds them, high byte first (R38, R63). -/
def encodeBytes (i : Instr) : List Byte := [opHigh (encode i), opLow (encode i)]

/-- The instruction the decoder reads from an instruction of `nbits` bits `w`, numbered as the opcode table numbers
them: the one 16-bit word, its bits above `nbits` zero, laid out in memory order. -/
def decodeTableWord (nbits w : Nat) : Option Instr :=
  let op : Word := BitVec.ofNat 16 (w % 2 ^ nbits)
  match decodeBytes [opHigh op, opLow op] with
  | .ok (i, _) => some i
  | .error _ => none

end Sys2Proof
end

