-- ==== Sys2Proof/Machine/State.lean ====
section
/-! DEFINITION. The state of the core (spec/10_state.md), the causes of faults (spec/60_exceptions.md R109), the
ways a step can stop, and the state right after reset (spec/70_reset_and_hazards.md R132, R133). -/

namespace Sys2Proof.Machine

/-- The causes of the error taxonomy with the one value each carries (R109, R111; log entry 18). -/
inductive Cause where
  /-- Code 1: a fetch or a data access outside 0 to 4095, or a `Bnnn` target there. -/
  | outOfMemoryAccess (addr : Nat)
  /-- Code 2: no instruction matches the word. -/
  | unknownOpcode (op : Word)
  /-- Code 3: `2nnn` with `SP` at 16. -/
  | stackOverflow (op : Word)
  /-- Code 4: `00EE` with `SP` at 0. -/
  | stackUnderflow (op : Word)
  /-- Code 5: `Fx29` with a value above 15. -/
  | invalidDigit (d : Nat)
  /-- Code 6: an image that does not fit; raised by the load transaction, never by a cycle. -/
  | imageTooLarge (len : Nat)
  /-- Code 7: a key number above 15, from `Ex9E`, `ExA1` or the key-set transaction. -/
  | unknownKey (k : Nat)
  deriving DecidableEq, Repr

/-- What a cycle fault records (R111): the cause with its value, the unchanged `PC`, and the opcode when the fetch
succeeded. -/
structure FaultRecord where
  cause : Cause
  pc : Word
  op : Option Word
  deriving DecidableEq, Repr

/-- How far the session is (R127, R134, R135): what decides whether a load is still allowed (log entry 15). -/
inductive Session where
  /-- After reset: a load is allowed. -/
  | fresh
  /-- After a load, before the first run. -/
  | loaded
  /-- After the first run. -/
  | started
  deriving DecidableEq, Repr

/-- The display: 32 rows, counted from the top, of 64 cells, counted from the left; true is lit (R24). -/
abbrev Display := Vector (Vector Bool 64) 32

/-- Memory as the bytes that differ from the reset contents: addresses strictly rising (R25; log entry 20). -/
abbrev Memory := List Host.Cell

/-- All state of the core, each field's rule in INVENTORY.md. -/
structure State where
  /-- The general registers `V0` to `VF` (R13, R14). -/
  v : Vector Byte 16
  /-- The index register `I` (R15). -/
  i : Word
  /-- The program counter `PC` (R16, R17). -/
  pc : Word
  /-- The stack pointer `SP`: how many return addresses the stack holds (R18). -/
  sp : Byte
  /-- The return stack (R19). -/
  stack : Vector Word 16
  /-- The delay timer `DT` (R20). -/
  dt : Byte
  /-- The sound timer `ST` (R21). -/
  st : Byte
  /-- The key levels, true for down (R23). -/
  keys : Vector Bool 16
  /-- The display (R24). -/
  display : Display
  /-- The memory (R25). -/
  mem : Memory
  /-- The mode flag `LOAD_STORE_QUIRK` (R26). -/
  loadStoreQuirk : Bool
  /-- The mode flag `SHIFT_QUIRK` (R26). -/
  shiftQuirk : Bool
  /-- The mode flag `WRAPPING` (R26). -/
  wrapping : Bool
  /-- The instruction period `P` in seconds per cycle (R27). -/
  period : Rat
  /-- The cycle credit (R28). -/
  cycleCredit : Rat
  /-- The timer credit (R28). -/
  timerCredit : Rat
  /-- The fault latch (R30, R113). -/
  fault : Option FaultRecord
  /-- How far the session is (R134, R135). -/
  session : Session
  /-- The model's own field: the number of the next draw of the random source (log entry 4). -/
  draws : Nat
  deriving DecidableEq, Repr

/-- How a step can stop beside the faults the core itself takes (those are next states with the latch set, R113,
R116). -/
inductive Fault where
  /-- Raised by `00EE` alone, when `SP` is above 16, so that the entry it would read is none of `stack[0]` to
  `stack[15]` (R8, R19). SAFE: no run reaches such an `SP` (R18, R31), and the model stops there (log entry 7). -/
  | stackEntryAbsent (index : Nat)
  deriving DecidableEq, Repr

/-- Why an instruction has no meaning. -/
inductive Refusal where
  /-- Raised by an arm of `exec` whose instruction has no meaning yet; no arm does. SAFE: the model stops. -/
  | notModelled (mnemonic : String)
  deriving DecidableEq, Repr

/-- What a meaning or a cycle answers. -/
abbrev StepOutcome := Host.Outcome State Fault Refusal

/-- The machine right after reset with the default configuration (R132, R133): stated values for `PC`, `SP`, `DT`,
`ST`, the display and the memory (nothing listed: the font and zeros); the chosen 0 and false of the spec for the
other registers (log entry 1); the configuration of `SessionConfig.default` (log entries 2, 3). -/
def State.reset : State where
  v := Vector.replicate 16 0
  i := 0
  pc := 0x200
  sp := 0
  stack := Vector.replicate 16 0
  dt := 0
  st := 0
  keys := Vector.replicate 16 false
  display := Vector.replicate 32 (Vector.replicate 64 false)
  mem := []
  loadStoreQuirk := SessionConfig.default.loadStoreQuirk
  shiftQuirk := SessionConfig.default.shiftQuirk
  wrapping := SessionConfig.default.wrapping
  period := SessionConfig.default.period
  cycleCredit := 0
  timerCredit := 0
  fault := none
  session := .fresh
  draws := 0

end Sys2Proof.Machine
end

