-- ==== Sys2Proof/Machine/Ops.lean ====
section
/-! DEFINITION. The named operations over the state: memory (spec/20_memory.md), registers and the program counter
(spec/10_state.md R13 to R19), the display cells (R24), taking a fault (spec/60_exceptions.md R112, R113, R116) and
the only way on from one (R117, R132). -/

namespace Sys2Proof.Machine

/-! ## Memory -/

/-- Byte `a` of a font laid out from address 0: byte `a mod 5` of glyph `a div 5`; zero past its 80 bytes (R44). -/
def fontByte (f : Font) (a : Nat) : Byte := ((f[a / 5]?).bind (fun g => g[a % 5]?)).getD 0

/-- What an address that memory does not list reads as: the reset contents (R25, R42). -/
def resetByte (a : Nat) : Byte := fontByte Config.font a

/-- The byte at an address. -/
def Memory.read : Memory → Nat → Byte
  | [], a => resetByte a
  | (b, w) :: rest, a => if b = a then w else Memory.read rest a

/-- Memory with one byte set, in canonical form: writing what an unlisted address reads as removes the entry. -/
def Memory.write : Memory → Nat → Byte → Memory
  | [], a, w => if w = resetByte a then [] else [(a, w)]
  | (b, u) :: rest, a, w =>
    if a < b then (if w = resetByte a then (b, u) :: rest else (a, w) :: (b, u) :: rest)
    else if a = b then (if w = resetByte a then rest else (a, w) :: rest)
    else (b, u) :: Memory.write rest a w

/-- Consecutive bytes written from an address up (R39). -/
def Memory.writeBytes (m : Memory) (a : Nat) : List Byte → Memory
  | [] => m
  | w :: ws => Memory.writeBytes (Memory.write m a w) (a + 1) ws

/-- The canonical form: addresses strictly rising and inside the 4096 bytes, no entry equal to what its address would
read as if unlisted. -/
def Memory.wf : Memory → Bool
  | [] => true
  | (a, w) :: rest =>
    decide (a ≤ 4095) && decide (w ≠ resetByte a) && rest.all (fun c => decide (a < c.1)) && Memory.wf rest

/-- `MemRead(addr, 1)`: the byte, or `OutOfMemoryAccess(addr)` outside 0 to 4095 (R37). -/
def memRead (m : Memory) (a : Nat) : Except Cause Byte :=
  if a ≤ 4095 then .ok (Memory.read m a) else .error (.outOfMemoryAccess a)

/-- The check of a whole access of `len` bytes at base `i` before anything changes (R9, R37, R94, R95, R98): the
access ends above the memory when `i + len` exceeds 4096, and the fault names the lowest address out of range. -/
def spanFault (i : Nat) (len : Nat) : Option Cause :=
  if i + len > 4096 then some (.outOfMemoryAccess (max i 4096)) else none

/-! ## Registers -/

/-- `V[x]` (R8). -/
def State.getV (s : State) (x : Reg) : Byte := s.v[x.val]

/-- `V[x] <- b` (R8). -/
def State.setV (s : State) (x : Reg) (b : Byte) : State := { s with v := s.v.set x.val b }

/-- All general registers at once, for the block load (R97). -/
def State.setAllV (s : State) (v : Vector Byte 16) : State := { s with v := v }

/-- `I <- w`. -/
def State.setI (s : State) (w : Word) : State := { s with i := w }

/-- `PC <- w`. -/
def State.setPc (s : State) (w : Word) : State := { s with pc := w }

/-- `SP <- b`. -/
def State.setSp (s : State) (b : Byte) : State := { s with sp := b }

/-- `stack[k]`, an entry for 0 to 15 only (R8, R19). -/
def State.stackEntry (s : State) (k : Nat) : Option Word := s.stack[k]?

/-- `stack[k] <- w` for an index in range (R8, R19). -/
def State.setStackEntry (s : State) (k : Nat) (w : Word) : State := { s with stack := s.stack.setIfInBounds k w }

/-- `DT <- b`. -/
def State.setDt (s : State) (b : Byte) : State := { s with dt := b }

/-- `ST <- b`. -/
def State.setSt (s : State) (b : Byte) : State := { s with st := b }

/-- `key[k]` (R8). -/
def State.key (s : State) (k : Reg) : Bool := s.keys[k.val]

/-- The level of key `k`, as the host sets it (R126). -/
def State.setKeyLevel (s : State) (k : Reg) (down : Bool) : State := { s with keys := s.keys.set k.val down }

/-- The memory replaced. -/
def State.setMem (s : State) (m : Memory) : State := { s with mem := m }

/-- The display replaced. -/
def State.setDisplay (s : State) (d : Display) : State := { s with display := d }

/-- The fault latch. -/
def State.setFault (s : State) (f : Option FaultRecord) : State := { s with fault := f }

/-- The two credit counters. -/
def State.setCredits (s : State) (cycles ticks : Rat) : State := { s with cycleCredit := cycles, timerCredit := ticks }

/-- How far the session is. -/
def State.setSession (s : State) (p : Session) : State := { s with session := p }

/-- The number of the next draw. -/
def State.setDraws (s : State) (k : Nat) : State := { s with draws := k }

/-- The byte of memory at an address, for an access whose range has been checked. -/
def State.byteAt (s : State) (a : Nat) : Byte := Memory.read s.mem a

/-! ## The program counter (R17) -/

/-- `PC <- PC + 2`: every instruction that is no jump, call, return or taken skip. -/
def State.stepPc (s : State) : State := s.setPc (s.pc + 2)

/-- `PC <- PC + 4`: a skip whose predicate holds. -/
def State.skipPc (s : State) : State := s.setPc (s.pc + 4)

/-- End an instruction with `PC <- PC + 2`. -/
def finish (s : State) : StepOutcome := .next s.stepPc

/-- End a conditional skip (R70). -/
def skipIf (p : Bool) (s : State) : StepOutcome := .next (if p then s.skipPc else s.stepPc)

/-! ## Display cells -/

/-- `disp[r][c]` (R8, R24). -/
def Display.cell (d : Display) (r : Fin 32) (c : Fin 64) : Bool := d[r.val][c.val]

/-- `disp[r][c] <- not disp[r][c]` (R94). -/
def Display.toggle (d : Display) (r : Fin 32) (c : Fin 64) : Display :=
  d.set r.val (d[r.val].set c.val (!Display.cell d r c))

/-- Every cell unlit (R100). -/
def Display.clear : Display := Vector.replicate 32 (Vector.replicate 64 false)

/-! ## Taking a fault, and the way on -/

/-- TAKING A FAULT, for every cause and stage: the state is kept as it was, `PC` included, and the latch records the
cause, the `PC` of the cycle and the opcode when there is one; control goes nowhere (R111, R112, R113, R116). -/
def State.takeFault (s : State) (cause : Cause) (op : Option Word) : State :=
  s.setFault (some { cause := cause, pc := s.pc, op := op })

/-- An instruction raises a fault: the next state is the one that has taken it. -/
def raise (cause : Cause) (i : Instr) (s : State) : StepOutcome := .next (s.takeFault cause (some (encode i)))

/-- The 80 bytes of a font in order of address (R44). -/
def fontBytes (f : Font) : List Byte := (List.range 80).map (fontByte f)

/-- Memory right after reset: the font at 0x000 to 0x04F, zero in every other byte (R132). -/
def Memory.ofFont (f : Font) : Memory := Memory.writeBytes [] 0 (fontBytes f)

/-- THE WAY ON FROM A FAULT is reset alone (R117): `reset(cfg)` gives every piece of state its reset value, latches
the configuration, writes the font into 0x000 to 0x04F and zero into the rest, and clears the latch (R132, R133). -/
def State.resetWith (cfg : SessionConfig) : State :=
  { State.reset with
    mem := Memory.ofFont cfg.font
    loadStoreQuirk := cfg.loadStoreQuirk
    shiftQuirk := cfg.shiftQuirk
    wrapping := cfg.wrapping
    period := cfg.period }

/-- Reset of a core that has run: nothing of the state survives, but the random source, which is no state of the core
and is not reset (R29, R91, R132), goes on with its next draw (log entry 4). -/
def State.restart (s : State) (cfg : SessionConfig) : State := (State.resetWith cfg).setDraws s.draws

end Sys2Proof.Machine
end

