-- ==== Sys2Proof/Machine/Operands.lean ====
section
/-! DEFINITION. Operand forms: how an instruction gets a value from its fields and the state
(spec/00_scope.md R8, R10; spec/30_encoding.md R53). All are read from the state before the instruction (R78). -/

namespace Sys2Proof.Machine

/-- A 12-bit field zero-extended to 16 bits, for `PC` and `I` (R53). -/
def wideNNN (nnn : Addr) : Word := nnn.setWidth 16

/-- A register zero-extended to 16 bits, for the sums with `I` (R104). -/
def wideByte (b : Byte) : Word := b.setWidth 16

/-- The source of the shifts: `V[x]` with `SHIFT_QUIRK`, else `V[y]` (R79). -/
def shiftSource (s : State) (x y : Reg) : Byte := if s.shiftQuirk then s.getV x else s.getV y

/-- The target of `Bnnn`, an unbounded sum of the field and `V[0]` (R69). -/
def offsetTarget (s : State) (nnn : Addr) : Nat := nnn.toNat + (s.getV 0).toNat

/-- A key number held in a register: none above 15, and no masking (R70). -/
def keyNumber (b : Byte) : Option Reg := if h : b.toNat < 16 then some ⟨b.toNat, h⟩ else none

/-- The address of the glyph of digit `d` (R105, R44). -/
def glyphAddress (d : Byte) : Word := 5 * wideByte d

/-- How many registers a block transfer moves: `V[0]` to `V[x]` (R95). -/
def blockLength (x : Reg) : Nat := x.val + 1

/-- The bytes a block store moves, `V[0]` first (R39, R96). -/
def blockBytes (s : State) (x : Reg) : List Byte := s.v.toList.take (blockLength x)

/-- The registers after a block load: `V[k]` from `I + k` for `k` up to `x`, the others as they were (R97). -/
def blockLoaded (s : State) (x : Reg) : Vector Byte 16 :=
  Vector.ofFn fun k => if k ≤ x then s.byteAt (s.i.toNat + k.val) else s.getV k

/-- The index register after a block transfer: past the block, or unchanged with `LOAD_STORE_QUIRK` (R95). -/
def blockIndex (s : State) (x : Reg) : Word :=
  if s.loadStoreQuirk then s.i else BitVec.ofNat 16 (s.i.toNat + blockLength x)

/-- The three decimal digits of a byte, each a whole byte, most significant first (R98). -/
def bcdDigits (b : Byte) : List Byte :=
  [BitVec.ofNat 8 (b.toNat / 100), BitVec.ofNat 8 (b.toNat / 10 % 10), BitVec.ofNat 8 (b.toNat % 10)]

/-- The lowest key that is down, if any (R99). -/
def lowestKey (s : State) : Option Reg := (List.finRange 16).find? (fun k => s.key k)

/-- The draw that the next `Cxkk` takes (R91). -/
def nextDraw (s : State) : Byte := Config.randomDraw s.draws

end Sys2Proof.Machine
end

