-- ==== Sys2Proof/Machine/Flags.lean ====
section
/-! DEFINITION. The arithmetic laws with their flags (spec/42_arithmetic.md R77, R78), the one place where a flag is
computed and written. -/

namespace Sys2Proof.Machine

/-- A result and the flag that goes to `VF` with it. -/
structure Flagged where
  result : Byte
  flag : Byte
  deriving DecidableEq, Repr

/-- A condition as the flag value 1 or 0. -/
def flagOf (p : Bool) : Byte := if p then 1 else 0

/-- Addition: the sum mod 256, the flag 1 exactly when the exact sum exceeds 255 (R77, R86). -/
def addFlagged (a b : Byte) : Flagged where
  result := BitVec.ofNat 8 ((a.toNat + b.toNat) % 256)
  flag := flagOf (decide (a.toNat + b.toNat > 255))

/-- Subtraction `a - b`: the difference mod 256, the flag "no borrow", 1 exactly when `a ≥ b` (R77, R87, R89). -/
def subFlagged (a b : Byte) : Flagged where
  result := BitVec.ofNat 8 ((a.toNat + 256 - b.toNat) % 256)
  flag := flagOf (decide (a.toNat ≥ b.toNat))

/-- Shift right by one: bit 7 filled with 0, the flag the old bit 0 (R77, R88). -/
def shrFlagged (src : Byte) : Flagged where
  result := BitVec.ofNat 8 (src.toNat / 2)
  flag := flagOf (src.getLsbD 0)

/-- Shift left by one: bit 0 filled with 0, the flag the old bit 7 (R77, R90). -/
def shlFlagged (src : Byte) : Flagged where
  result := BitVec.ofNat 8 (src.toNat * 2 % 256)
  flag := flagOf (src.getLsbD 7)

/-- The writes of a flag-writing instruction: the flag to `VF` first, the result to `V[x]` second, so that the result
is what stays when `x` is 15 (R78; log entry 8). -/
def State.writeFlagged (s : State) (x : Reg) (r : Flagged) : State := (s.setV regF r.flag).setV x r.result

end Sys2Proof.Machine
end

