-- ==== Sys2Proof/Machine/Arithmetic.lean ====
section
/-! DEFINITION. Register load, arithmetic, logic and shift instructions (spec/42_arithmetic.md R77 to R90). -/

namespace Sys2Proof.Machine

/-- `6xkk` LD Vx, kk (R80). -/
def execLdImm (x : Reg) (kk : Byte) (s : State) : StepOutcome := finish (s.setV x kk)

/-- `7xkk` ADD Vx, kk: no flag (R81). -/
def execAddImm (x : Reg) (kk : Byte) (s : State) : StepOutcome := finish (s.setV x (addFlagged (s.getV x) kk).result)

/-- `8xy0` LD Vx, Vy (R82). -/
def execLdReg (x y : Reg) (s : State) : StepOutcome := finish (s.setV x (s.getV y))

/-- `8xy1` OR Vx, Vy: no flag (R83). -/
def execOrReg (x y : Reg) (s : State) : StepOutcome := finish (s.setV x (s.getV x ||| s.getV y))

/-- `8xy2` AND Vx, Vy: no flag (R84). -/
def execAndReg (x y : Reg) (s : State) : StepOutcome := finish (s.setV x (s.getV x &&& s.getV y))

/-- `8xy3` XOR Vx, Vy: no flag (R85). -/
def execXorReg (x y : Reg) (s : State) : StepOutcome := finish (s.setV x (s.getV x ^^^ s.getV y))

/-- `8xy4` ADD Vx, Vy: flag carry (R86). -/
def execAddReg (x y : Reg) (s : State) : StepOutcome := finish (s.writeFlagged x (addFlagged (s.getV x) (s.getV y)))

/-- `8xy5` SUB Vx, Vy: `V[x] - V[y]`, flag no borrow (R87). -/
def execSubReg (x y : Reg) (s : State) : StepOutcome := finish (s.writeFlagged x (subFlagged (s.getV x) (s.getV y)))

/-- `8xy6` SHR Vx, Vy: flag the bit shifted out (R88, R79). -/
def execShr (x y : Reg) (s : State) : StepOutcome := finish (s.writeFlagged x (shrFlagged (shiftSource s x y)))

/-- `8xy7` SUBN Vx, Vy: `V[y] - V[x]`, flag no borrow (R89). -/
def execSubn (x y : Reg) (s : State) : StepOutcome := finish (s.writeFlagged x (subFlagged (s.getV y) (s.getV x)))

/-- `8xyE` SHL Vx, Vy: flag the bit shifted out (R90, R79). -/
def execShl (x y : Reg) (s : State) : StepOutcome := finish (s.writeFlagged x (shlFlagged (shiftSource s x y)))

end Sys2Proof.Machine
end

