-- ==== Sys2Proof/Machine/Block.lean ====
section
/-! DEFINITION. The block store and load (spec/45_block_transfer.md R95 to R97) and the BCD store
(spec/46_bcd.md R98): the only stores and loads. Each checks its whole range before anything moves. -/

namespace Sys2Proof.Machine

/-- `Fx55` LD [I], Vx (R96). -/
def execStoreRegs (x : Reg) (s : State) : StepOutcome :=
  match spanFault s.i.toNat (blockLength x) with
  | some cause => raise cause (.storeRegs x) s
  | none => finish ((s.setMem (Memory.writeBytes s.mem s.i.toNat (blockBytes s x))).setI (blockIndex s x))

/-- `Fx65` LD Vx, [I] (R97). -/
def execLoadRegs (x : Reg) (s : State) : StepOutcome :=
  match spanFault s.i.toNat (blockLength x) with
  | some cause => raise cause (.loadRegs x) s
  | none => finish ((s.setAllV (blockLoaded s x)).setI (blockIndex s x))

/-- `Fx33` LD B, Vx: `I` is unchanged under either value of `LOAD_STORE_QUIRK` (R98). -/
def execLdBcd (x : Reg) (s : State) : StepOutcome :=
  match spanFault s.i.toNat 3 with
  | some cause => raise cause (.ldBcd x) s
  | none => finish (s.setMem (Memory.writeBytes s.mem s.i.toNat (bcdDigits (s.getV x))))

end Sys2Proof.Machine
end

