-- ==== Sys2Proof/Machine/Draw.lean ====
section
/-! DEFINITION. The draw instruction and its pixel geometry (spec/44_draw.md R93, R94). -/

namespace Sys2Proof.Machine

/-- The cell of an intended position: wrapped modulo the display with `WRAPPING`, else none off the display; the
position is an unbounded sum (R93; log entry 10). -/
def pixelCell (wrapping : Bool) (px py : Nat) : Option (Fin 32 × Fin 64) :=
  if wrapping then some (Fin.ofNat 32 py, Fin.ofNat 64 px)
  else if px > 63 ∨ py > 31 then none
  else some (Fin.ofNat 32 py, Fin.ofNat 64 px)

/-- A display in the making and whether a cell has gone from lit to unlit so far (R94). -/
structure Canvas where
  display : Display
  hit : Bool
  deriving DecidableEq, Repr

/-- One sprite bit of 1: toggle its cell and note a collision; nothing for a skipped pixel (R94). -/
def plot (wrapping : Bool) (px py : Nat) (cv : Canvas) : Canvas :=
  match pixelCell wrapping px py with
  | some (r, c) => { display := cv.display.toggle r c, hit := cv.hit || cv.display.cell r c }
  | none => cv

/-- Column `c` of a sprite row is bit `7 - c` of its byte: the most significant bit is the leftmost (R93). -/
def spriteBit (row : Byte) (c : Nat) : Bool := row.getLsbD (7 - c)

/-- One row of a sprite at `(px, py)`, columns left to right. -/
def drawRow (wrapping : Bool) (px py : Nat) (row : Byte) (cv : Canvas) : Canvas :=
  (List.range 8).foldl (fun cv c => if spriteBit row c then plot wrapping (px + c) py cv else cv) cv

/-- The first `n` rows of the sprite at `I`, drawn at `(px, py)`, top row first (R94). -/
def drawSprite (s : State) (px py n : Nat) (cv : Canvas) : Canvas :=
  (List.range n).foldl (fun cv r => drawRow s.wrapping px (py + r) (s.byteAt (s.i.toNat + r)) cv) cv

/-- What `Dxyn` draws: its sprite at `(V[x], V[y])`, read before `VF` is written, on the display as it stands. -/
def drawn (s : State) (x y : Reg) (n : Nibble) : Canvas :=
  drawSprite s (s.getV x).toNat (s.getV y).toNat n.toNat { display := s.display, hit := false }

/-- `Dxyn` DRW Vx, Vy, n: `OutOfMemoryAccess` when `I + n` exceeds 4096, before anything is changed; else the display
is drawn on and `VF` is the single collision flag, also when nothing is drawn (R94). -/
def execDrw (x y : Reg) (n : Nibble) (s : State) : StepOutcome :=
  match spanFault s.i.toNat n.toNat with
  | some cause => raise cause (.drw x y n) s
  | none => finish ((s.setDisplay (drawn s x y n).display).setV regF (flagOf (drawn s x y n).hit))

end Sys2Proof.Machine
end

