-- ==== Sys2Proof/Machine/Flow.lean ====
section
/-! DEFINITION. The flow instructions (spec/40_flow.md R65 to R69). A target goes into `PC` as it is, without a check
for evenness (R65). -/

namespace Sys2Proof.Machine

/-- `1nnn` JP nnn (R66). -/
def execJp (nnn : Addr) (s : State) : StepOutcome := .next (s.setPc (wideNNN nnn))

/-- `2nnn` CALL nnn: push the call's own address, or `StackOverflow` when `SP` would exceed 16 (R67). -/
def execCall (nnn : Addr) (s : State) : StepOutcome :=
  if 16 ≤ s.sp.toNat then raise (.stackOverflow (encode (.call nnn))) (.call nnn) s
  else .next (((s.setStackEntry s.sp.toNat s.pc).setSp (s.sp + 1)).setPc (wideNNN nnn))

/-- `00EE` RET: pop and add 2, or `StackUnderflow` when `SP` is 0; the entry is not cleared (R68). -/
def execRet (s : State) : StepOutcome :=
  if s.sp.toNat = 0 then raise (.stackUnderflow (encode .ret)) .ret s
  else
    match s.stackEntry (s.sp.toNat - 1) with
    | some entry => .next ((s.setSp (s.sp - 1)).setPc (entry + 2))
    | none => .fault (.stackEntryAbsent (s.sp.toNat - 1))

/-- `Bnnn` JP V0, nnn: `OutOfMemoryAccess` when the target is 4096 or more (R69). -/
def execJpV0 (nnn : Addr) (s : State) : StepOutcome :=
  if offsetTarget s nnn > 4095 then raise (.outOfMemoryAccess (offsetTarget s nnn)) (.jpV0 nnn) s
  else .next (s.setPc (BitVec.ofNat 16 (offsetTarget s nnn)))

end Sys2Proof.Machine
end

