-- ==== Sys2Proof/Machine/Misc.lean ====
section
/-! DEFINITION. Clear and no-operation (spec/48_clear_nop.md R100, R101), key wait (spec/47_keywait.md R99), and the
index register, timer and glyph instructions (spec/49_index_timer_font.md R102 to R108). -/

namespace Sys2Proof.Machine

/-- `0000` NOP (R101). -/
def execNop (s : State) : StepOutcome := finish s

/-- `00E0` CLS: `VF` is not written (R100). -/
def execCls (s : State) : StepOutcome := finish (s.setDisplay Display.clear)

/-- `Fx0A` LD Vx, K: the lowest key that is down; with none down no write at all, `PC` included (R99). -/
def execLdKey (x : Reg) (s : State) : StepOutcome :=
  match lowestKey s with
  | some k => finish (s.setV x (BitVec.ofNat 8 k.val))
  | none => .next s

/-- `Annn` LD I, nnn (R103). -/
def execLdI (nnn : Addr) (s : State) : StepOutcome := finish (s.setI (wideNNN nnn))

/-- `Fx1E` ADD I, Vx: mod 65536, no flag and no bounds check (R104). -/
def execAddI (x : Reg) (s : State) : StepOutcome := finish (s.setI (s.i + wideByte (s.getV x)))

/-- `Fx29` LD F, Vx: `InvalidDigit` above 15, no masking, no memory access (R105). -/
def execLdFont (x : Reg) (s : State) : StepOutcome :=
  if (s.getV x).toNat > 15 then raise (.invalidDigit (s.getV x).toNat) (.ldFont x) s
  else finish (s.setI (glyphAddress (s.getV x)))

/-- `Fx07` LD Vx, DT (R106). -/
def execLdFromDt (x : Reg) (s : State) : StepOutcome := finish (s.setV x s.dt)

/-- `Fx15` LD DT, Vx (R107). -/
def execLdDt (x : Reg) (s : State) : StepOutcome := finish (s.setDt (s.getV x))

/-- `Fx18` LD ST, Vx (R108). -/
def execLdSt (x : Reg) (s : State) : StepOutcome := finish (s.setSt (s.getV x))

end Sys2Proof.Machine
end

