-- ==== Sys2Proof/Machine/Random.lean ====
section
/-! DEFINITION. The random instruction (spec/43_random.md R91, R92). -/

namespace Sys2Proof.Machine

/-- `Cxkk` RND Vx, kk: exactly one draw is taken, a FREE VALUE (log entry 4), and masked (R92). -/
def execRnd (x : Reg) (kk : Byte) (s : State) : StepOutcome :=
  finish ((s.setV x (nextDraw s &&& kk)).setDraws (s.draws + 1))

end Sys2Proof.Machine
end

