-- ==== Sys2Proof/Machine/Skips.lean ====
section
/-! DEFINITION. The conditional skips (spec/41_skips.md R70 to R76). -/

namespace Sys2Proof.Machine

/-- `3xkk` SE Vx, kk (R71). -/
def execSeImm (x : Reg) (kk : Byte) (s : State) : StepOutcome := skipIf (s.getV x == kk) s

/-- `4xkk` SNE Vx, kk (R72). -/
def execSneImm (x : Reg) (kk : Byte) (s : State) : StepOutcome := skipIf (s.getV x != kk) s

/-- `5xy0` SE Vx, Vy (R73). -/
def execSeReg (x y : Reg) (s : State) : StepOutcome := skipIf (s.getV x == s.getV y) s

/-- `9xyN` SNE Vx, Vy, the same for every ignored nibble (R74, R59; log entry 9). -/
def execSneReg (x y : Reg) (_ignored : Nibble) (s : State) : StepOutcome := skipIf (s.getV x != s.getV y) s

/-- A skip on a key keyed by the value of `V[x]`, for instruction `i`: `UnknownKey` above 15 (R70; log entry 12),
else a skip when the key's level is `level`. -/
def keySkip (i : Instr) (x : Reg) (level : Bool) (s : State) : StepOutcome :=
  match keyNumber (s.getV x) with
  | some k => skipIf (s.key k == level) s
  | none => raise (.unknownKey (s.getV x).toNat) i s

/-- `Ex9E` SKP Vx (R75). -/
def execSkp (x : Reg) (s : State) : StepOutcome := keySkip (.skp x) x true s

/-- `ExA1` SKNP Vx (R76). -/
def execSknp (x : Reg) (s : State) : StepOutcome := keySkip (.sknp x) x false s

end Sys2Proof.Machine
end

