-- ==== Sys2Proof/Machine/Fetch.lean ====
section
/-! DEFINITION. Instruction fetch (spec/30_encoding.md R51), decode of the fetched word with its fault (R54, R58), and
the placing of a word where the next fetch reads it. -/

namespace Sys2Proof.Machine

/-- The two byte reads at `PC` and `PC + 1`, the first checked first, combined big-endian (R51, R38, R114). -/
def fetch (s : State) : Except Cause Word :=
  match memRead s.mem s.pc.toNat with
  | .error c => .error c
  | .ok hi =>
    match memRead s.mem (s.pc.toNat + 1) with
    | .error c => .error c
    | .ok lo => .ok (opOfBytes hi lo)

/-- The cause that a refused word raises, `UnknownOpcode(op)` (R54, R58). -/
def decodeCause (op : Word) : DecodeError → Cause
  | .unknownOpcode op' => .unknownOpcode op'
  | .truncated => .unknownOpcode op

/-- The instruction the next cycle executes; or the fault its fetch or decode raises, with the opcode when the fetch
succeeded (R55, R111, R114). -/
def fetchDecode (s : State) : Except (Cause × Option Word) Instr :=
  match fetch s with
  | .error c => .error (c, none)
  | .ok op =>
    match decodeWord op with
    | .error e => .error (decodeCause op e, some op)
    | .ok i => .ok i

/-- The state with a word stored at `PC`, high byte first (R38); as it was where a fetch at `PC` would fault. -/
def State.placeWord (s : State) (op : Word) : State :=
  if s.pc.toNat + 1 ≤ 4095 then
    s.setMem (Memory.write (Memory.write s.mem s.pc.toNat (opHigh op)) (s.pc.toNat + 1) (opLow op))
  else s

end Sys2Proof.Machine
end

