-- ==== Sys2Proof/Machine/Step.lean ====
section
/-! DEFINITION. One step is one cycle of the core: fetch, decode, execute (spec/30_encoding.md R55). The timer ticks
and the acts of the host lie between cycles; they are the transactions of Machine/Transactions.lean (log entry 6). -/

namespace Sys2Proof.Machine

/-- The cycle (R55): nothing while the latch holds a fault (R113); else the fetched instruction is executed, or the
fault of its fetch or decode is taken. -/
def step (s : State) : Host.Outcome State Fault Refusal :=
  match s.fault with
  | some _ => .next s
  | none =>
    match fetchDecode s with
    | .error (cause, op) => .next (s.takeFault cause op)
    | .ok i => exec i s

/-- The state with the instruction of `nbits` bits `w` stored where `step` fetches next, at `PC`: the bits above
`nbits` zero, the word high byte first. The core fetches at its program counter, so nothing but memory changes; it
stands for the load of a program (R134, log entry 6). -/
def State.withFetchWord (s : State) (nbits w : Nat) : State := s.placeWord (BitVec.ofNat 16 (w % 2 ^ nbits))

end Sys2Proof.Machine
end

