-- ==== Sys2Proof/Machine/Transactions.lean ====
section
/-! DEFINITION. The timers, the clock adapter and the host interface (spec/60_exceptions.md R119 to R128,
spec/70_reset_and_hazards.md R132 to R135): the six transactions are all that a host can do to the core. -/

namespace Sys2Proof.Machine

/-! ## Timers and the sound flag -/

/-- A timer counts down and saturates at 0 (R121). -/
def countDown (t : Byte) : Byte := if t.toNat > 0 then t - 1 else t

/-- One timer tick: both timers, nothing else (R121). -/
def tick (s : State) : State := (s.setDt (countDown s.dt)).setSt (countDown s.st)

/-- The sound flag, an output and no stored bit (R22, R122). -/
def soundOn (s : State) : Bool := decide (s.st.toNat > 0)

/-! ## The clock adapter (R123) -/

/-- The whole credits of a counter: how many units a loop that runs while the credit is at least 1 takes. -/
def wholeCredits (credit : Rat) : Nat := credit.floor.toNat

/-- Both credits grow by an elapsed time: by `elapsed / P` cycles and by `60 * elapsed` ticks. -/
def State.accrue (s : State) (elapsed : Rat) : State :=
  s.setCredits (s.cycleCredit + elapsed / s.period) (s.timerCredit + elapsed * 60)

/-- One cycle credit is taken, before its cycle runs (log entry 19). -/
def State.payCycle (s : State) : State := s.setCredits (s.cycleCredit - 1) s.timerCredit

/-- One timer credit is taken. -/
def State.payTick (s : State) : State := s.setCredits s.cycleCredit (s.timerCredit - 1)

/-- Up to `n` paid cycles, ended by the first that latches a fault (R123, R125). -/
def runCycles : Nat → State → StepOutcome
  | 0, s => .next s
  | n + 1, s =>
    match step s.payCycle with
    | .next t => if t.fault.isSome then .next t else runCycles n t
    | .fault f => .fault f
    | .refused r => .refused r

/-- `n` paid ticks. -/
def runTicks : Nat → State → State
  | 0, s => s
  | n + 1, s => runTicks n (tick s.payTick)

/-! ## The transactions (R127) -/

/-- What a host can ask of the core. -/
inductive Transaction where
  /-- `reset(cfg)`, with the `FONT` argument of R6 in the configuration. -/
  | reset (cfg : SessionConfig)
  /-- `load(image)`. -/
  | load (image : List Byte)
  /-- `set_key(k, down)`. -/
  | setKey (k : Nat) (down : Bool)
  /-- `run(elapsed)`, in seconds. -/
  | run (elapsed : Rat)
  /-- `display()`. -/
  | display
  /-- `sound_on()`. -/
  | soundOn
  deriving DecidableEq, Repr

/-- What a transaction that took place returns. -/
inductive Reply where
  /-- No value. -/
  | ok
  /-- A run reports the latched fault (R113, R125). -/
  | faulted (r : FaultRecord)
  /-- The 2048 cells, cell number `64 * r + c` (R128). -/
  | cells (grid : List Bool)
  /-- The sound flag. -/
  | sound (on : Bool)
  deriving DecidableEq, Repr

/-- Why a transaction is outside the interface, so that the model refuses it (U15). -/
inductive TransactionRefusal where
  /-- Reset with a period that is not positive, or a font without the stated glyph "1". SAFE (log entry 16). -/
  | badConfiguration
  /-- A load that is not the first after reset, or comes after a run. SAFE (log entry 15). -/
  | loadOutOfOrder
  /-- A run with a negative elapsed time. SAFE (log entry 16). -/
  | negativeTime
  deriving DecidableEq, Repr

/-- How a transaction ends. -/
inductive TransactionOutcome where
  /-- It took place, with the state after it. -/
  | done (s : State) (reply : Reply)
  /-- A host-transaction error: that one transaction is rejected and the host told why; the state is the one before it
  and nothing is latched (R119). -/
  | rejected (s : State) (cause : Cause)
  /-- It is outside the interface. -/
  | refused (why : TransactionRefusal)
  /-- A cycle of a run stopped the model (never from a state with `SP` at most 16). -/
  | stopped (f : Fault)
  /-- A cycle of a run met an instruction without a meaning; there is none. -/
  | unmodelled (r : Refusal)
  deriving DecidableEq, Repr

/-- `reset(cfg)`, allowed at any time (R127, R132). -/
def resetCore (cfg : SessionConfig) (s : State) : TransactionOutcome :=
  if cfg.wellFormed then .done (s.restart cfg) .ok else .refused .badConfiguration

/-- `load(image)`: the bytes at 0x200 upward, or `ImageTooLarge`; once, after reset and before the first run (R134). -/
def loadImage (image : List Byte) (s : State) : TransactionOutcome :=
  if s.session = .fresh then
    if imageFits image.length then .done ((s.setMem (Memory.writeBytes s.mem 0x200 image)).setSession .loaded) .ok
    else .rejected s (.imageTooLarge image.length)
  else .refused .loadOutOfOrder

/-- `set_key(k, down)`: the level is stored, or `UnknownKey` above 15 (R126). -/
def setKey (k : Nat) (down : Bool) (s : State) : TransactionOutcome :=
  if keyOk k then .done (s.setKeyLevel (Fin.ofNat 16 k) down) .ok else .rejected s (.unknownKey k)

/-- The ticks of a run, after its cycles; none when a cycle latched a fault (R123, R125). -/
def finishRun (s : State) : TransactionOutcome :=
  match s.fault with
  | some r => .done s (.faulted r)
  | none => .done (runTicks (wholeCredits s.timerCredit) s) .ok

/-- The cycles a run with a clear latch issues (R123): the whole credits after the elapsed time is added. -/
def issuedCycles (elapsed : Rat) (s : State) : Nat := wholeCredits (s.accrue elapsed).cycleCredit

/-- The ticks such a run issues when no cycle faults (R123). -/
def issuedTicks (elapsed : Rat) (s : State) : Nat := wholeCredits (s.accrue elapsed).timerCredit

/-- `run(elapsed)`: with a fault latched it reports that fault and does nothing (R113); else whole cycles, then whole
ticks (R123). -/
def runFor (elapsed : Rat) (s : State) : TransactionOutcome :=
  if elapsedOk elapsed then
    match s.fault with
    | some r => .done s (.faulted r)
    | none =>
      match runCycles (issuedCycles elapsed s) ((s.accrue elapsed).setSession .started) with
      | .next t => finishRun t
      | .fault f => .stopped f
      | .refused r => .unmodelled r
  else .refused .negativeTime

/-- The row-major view of the display that the host reads (R24, R128). -/
def displayCells (s : State) : List Bool := s.display.toList.flatMap (fun row => row.toList)

/-- One transaction. -/
def transact (t : Transaction) (s : State) : TransactionOutcome :=
  match t with
  | .reset cfg => resetCore cfg s
  | .load image => loadImage image s
  | .setKey k down => setKey k down s
  | .run elapsed => runFor elapsed s
  | .display => .done s (.cells (displayCells s))
  | .soundOn => .done s (.sound (soundOn s))

/-- A session: transactions one after another. A rejected one is dropped alone and the session goes on from the
unchanged state (R119); one outside the interface, or that stops the model, ends it. -/
def transactAll : List Transaction → State → TransactionOutcome
  | [], s => .done s .ok
  | t :: ts, s =>
    match transact t s with
    | .done s' _ => transactAll ts s'
    | .rejected s' _ => transactAll ts s'
    | .refused why => .refused why
    | .stopped f => .stopped f
    | .unmodelled r => .unmodelled r

end Sys2Proof.Machine
end

