-- ==== Sys2Proof/Safety.lean ====
section
/-! DEFINITION. The terms claims are stated in: a good run of cycles, the invariants of the core (spec/10_state.md
R17, R18, R31; spec/20_memory.md R34; spec/60_exceptions.md R113), and which instruction may change what
(spec/10_state.md R13 to R21, R32). -/

namespace Sys2Proof.Machine

/-- No fault is latched: the core executes (R113). -/
abbrev State.running (s : State) : Prop := s.fault = none

/-- `k` cycles that all execute and latch no fault; "a faulted state is never a final state of a good run" (R113). -/
def goodRun : Nat → State → Bool
  | 0, s => decide s.running
  | k + 1, s =>
    match step s with
    | .next t => decide s.running && goodRun k t
    | .fault _ => false
    | .refused _ => false

/-- A cause that a cycle can raise: all but `ImageTooLarge`, which only the load transaction raises (R109, R119). -/
def Cause.ofCycle : Cause → Bool
  | .imageTooLarge _ => false
  | .outOfMemoryAccess _ | .unknownOpcode _ | .stackOverflow _ | .stackUnderflow _ | .invalidDigit _ | .unknownKey _ =>
    true

/-- The number the spec gives a cause (R109). -/
def Cause.code : Cause → Nat
  | .outOfMemoryAccess _ => 1
  | .unknownOpcode _ => 2
  | .stackOverflow _ => 3
  | .stackUnderflow _ => 4
  | .invalidDigit _ => 5
  | .imageTooLarge _ => 6
  | .unknownKey _ => 7

/-- The latch holds nothing, or a cycle fault raised at the present `PC` (R30, R112). -/
def State.latchOk (s : State) : Bool :=
  match s.fault with
  | none => true
  | some r => r.cause.ofCycle && decide (r.pc = s.pc)

/-- What every cycle keeps (R31): the bounds of `SP` and `PC`, every live stack entry the address of a fetched call,
the memory in canonical form, the latch sound. -/
def State.Inv (s : State) : Prop :=
  s.sp.toNat ≤ 16 ∧ s.pc.toNat ≤ 4098 ∧
  (∀ k : Reg, k.val < s.sp.toNat → (s.stack[k.val]).toNat ≤ 4094) ∧
  s.mem.wf = true ∧ s.latchOk = true

/-- What every transaction keeps of the clock adapter (R27, R28): a positive period, credits never negative, and both
below 1 between runs unless a fault cut a run short. -/
def State.ClockInv (s : State) : Prop :=
  0 < s.period ∧ 0 ≤ s.cycleCredit ∧ 0 ≤ s.timerCredit ∧
  (s.running → s.cycleCredit < 1 ∧ s.timerCredit < 1)

/-- What no instruction changes: the keys, the configuration, the credits and the session (R32). -/
def State.sameOutside (s t : State) : Prop :=
  t.keys = s.keys ∧ t.loadStoreQuirk = s.loadStoreQuirk ∧ t.shiftQuirk = s.shiftQuirk ∧ t.wrapping = s.wrapping ∧
  t.period = s.period ∧ t.cycleCredit = s.cycleCredit ∧ t.timerCredit = s.timerCredit ∧ t.session = s.session

end Sys2Proof.Machine

namespace Sys2Proof

open Sys2Proof.Machine

/-! ## Who may change what -/

/-- The general registers an instruction may write: the write rows of R13, `VF` for the flag writers of R14. -/
def Instr.mayWriteV (i : Instr) (r : Reg) : Bool :=
  match i with
  | .ldImm x _ | .addImm x _ | .ldReg x _ | .orReg x _ | .andReg x _ | .xorReg x _ | .rnd x _ | .ldFromDt x
  | .ldKey x => r == x
  | .addReg x _ | .subReg x _ | .shr x _ | .subn x _ | .shl x _ => r == x || r == regF
  | .drw _ _ _ => r == regF
  | .loadRegs x => decide (r ≤ x)
  | .nop | .cls | .ret | .jp _ | .call _ | .seImm _ _ | .sneImm _ _ | .seReg _ _ | .sneReg _ _ _ | .ldI _ | .jpV0 _
  | .skp _ | .sknp _ | .ldDt _ | .ldSt _ | .addI _ | .ldFont _ | .ldBcd _ | .storeRegs _ => false

/-- The instructions that may write `I` (R15); the block transfers only without `LOAD_STORE_QUIRK`. -/
def Instr.mayWriteI (i : Instr) (s : State) : Bool :=
  match i with
  | .ldI _ | .addI _ | .ldFont _ => true
  | .storeRegs _ | .loadRegs _ => !s.loadStoreQuirk
  | _ => false

/-- The instructions that may write `SP`: the call and the return (R18). -/
def Instr.mayWriteSp : Instr → Bool
  | .call _ | .ret => true
  | _ => false

/-- The stack entry an instruction may write: the call alone, at `SP` (R19). -/
def Instr.mayWriteStack (i : Instr) (s : State) (k : Nat) : Bool :=
  match i with
  | .call _ => k == s.sp.toNat
  | _ => false

/-- The instruction that writes `DT` (R20). -/
def Instr.mayWriteDt : Instr → Bool
  | .ldDt _ => true
  | _ => false

/-- The instruction that writes `ST` (R21). -/
def Instr.mayWriteSt : Instr → Bool
  | .ldSt _ => true
  | _ => false

/-- The instructions that write the display (R24). -/
def Instr.mayWriteDisplay : Instr → Bool
  | .cls | .drw _ _ _ => true
  | _ => false

/-- The bytes an instruction stores to: so many from the address that its meaning stores at, `I` before the
instruction; none for the others (R35). -/
def Instr.storeSpan (i : Instr) (s : State) : Nat × Nat :=
  match i with
  | .storeRegs x => (s.i.toNat, blockLength x)
  | .ldBcd _ => (s.i.toNat, 3)
  | _ => (s.i.toNat, 0)

/-- An address lies among the bytes an instruction stores to. -/
def Instr.stores (i : Instr) (s : State) (a : Nat) : Bool :=
  decide ((i.storeSpan s).1 ≤ a) && decide (a < (i.storeSpan s).1 + (i.storeSpan s).2)

/-- The instruction that takes a draw (R91). -/
def Instr.takesDraw : Instr → Bool
  | .rnd _ _ => true
  | _ => false

/-! ## When a cycle faults -/

/-- The one fault condition an instruction can have at execution, row by row of the table (R110). -/
def Instr.faultWhen (i : Instr) (s : State) : Option Cause :=
  match i with
  | .call _ => if s.sp.toNat = 16 then some (.stackOverflow (encode i)) else none
  | .ret => if s.sp.toNat = 0 then some (.stackUnderflow (encode i)) else none
  | .jpV0 nnn =>
    if nnn.toNat + (s.getV 0).toNat > 4095 then some (.outOfMemoryAccess (nnn.toNat + (s.getV 0).toNat)) else none
  | .skp x | .sknp x => if (s.getV x).toNat > 15 then some (.unknownKey (s.getV x).toNat) else none
  | .drw _ _ n => if s.i.toNat + n.toNat > 4096 then some (.outOfMemoryAccess (max s.i.toNat 4096)) else none
  | .storeRegs x | .loadRegs x =>
    if s.i.toNat + x.val > 4095 then some (.outOfMemoryAccess (max s.i.toNat 4096)) else none
  | .ldBcd _ => if s.i.toNat + 2 > 4095 then some (.outOfMemoryAccess (max s.i.toNat 4096)) else none
  | .ldFont x => if (s.getV x).toNat > 15 then some (.invalidDigit (s.getV x).toNat) else none
  | _ => none

end Sys2Proof

namespace Sys2Proof.Machine

/-- The word at `PC`, the byte at `PC` high (R38). -/
def State.wordAtPc (s : State) : Word := opOfBytes (s.byteAt s.pc.toNat) (s.byteAt (s.pc.toNat + 1))

/-- The fault of a cycle with a clear latch, if it has one: the first met of fetch, decode, execute (R110, R114). -/
def State.cycleFault (s : State) : Option Cause :=
  if s.pc.toNat > 4095 then some (.outOfMemoryAccess s.pc.toNat)
  else if s.pc.toNat = 4095 then some (.outOfMemoryAccess 4096)
  else
    match decodeWord s.wordAtPc with
    | .error _ => some (.unknownOpcode s.wordAtPc)
    | .ok i => i.faultWhen s

/-! ## Sprites and runs -/

/-- A sprite bit of 1 lands on a cell: some row below `n` and some column, its bit `7 - column` set, whose position is
the cell, modulo the display with `WRAPPING` and exactly without (R93). -/
def spriteCovers (s : State) (x y : Reg) (n : Nibble) (r : Fin 32) (c : Fin 64) : Prop :=
  ∃ row col : Nat, row < n.toNat ∧ col < 8 ∧ (s.byteAt (s.i.toNat + row)).getLsbD (7 - col) = true ∧
    (if s.wrapping then ((s.getV y).toNat + row) % 32 = r.val ∧ ((s.getV x).toNat + col) % 64 = c.val
     else (s.getV y).toNat + row = r.val ∧ (s.getV x).toNat + col = c.val)

/-- Runs one after another, none of which ends in a fault: the cycles and the ticks they issue, and the state after
(R123, R124). -/
def runSeries : List Rat → State → Option (Nat × Nat × State)
  | [], s => some (0, 0, s)
  | d :: ds, s =>
    match runFor d s with
    | .done t .ok =>
      match runSeries ds t with
      | some (n, m, u) => some (issuedCycles d s + n, issuedTicks d s + m, u)
      | none => none
    | _ => none

end Sys2Proof.Machine
end

