-- ==== Sys2Proof/Certificates/Slice0/Obligations.lean ====
section
/-! DEFINITION. The statements for the provers. Each docstring names the rule of spec/ it formalises; a clause that
rests on a decision or an inference the spec marks as its own, or on a choice of the model, says so. -/

open Sys2Proof Sys2Proof.Machine

/-! ## Encoding -/

/-- Decoding the bytes of a well-formed instruction, whatever bytes follow, gives the instruction and the bytes that
follow (R50, R52, R53); the format layouts are the spec's positional reading. Nine patterns are of general knowledge
(decision D23, log entry 13). -/
def Obligations.DecodeOfEncodeIsTheInstruction : Prop :=
  ∀ (i : Instr) (rest : List Byte), i.wellFormed = true → decodeBytes (encodeBytes i ++ rest) = .ok (i, rest)

/-- A word that decodes is the word of the instruction it decodes to: decoding drops no bit (R53, R59; the ignored
nibble of family 9 is kept in the syntax, decision D13). -/
def Obligations.EncodeOfDecodeIsTheWord : Prop :=
  ∀ (op : Word) (i : Instr), decodeWord op = .ok i → i.wellFormed = true ∧ encode i = op

/-- Every word either selects exactly one row of the opcode map, the row of the instruction it decodes to, or is
refused as unknown and no row has it (R56, R60, both marked derived by the spec). -/
def Obligations.DecoderIsTheOpcodeMap : Prop :=
  ∀ op : Word,
    (∃ i, decodeWord op = .ok i ∧ i.row ∈ opcodeMap ∧ i.row.covers op = true ∧
      ∀ r ∈ opcodeMap, r.covers op = true → r = i.row) ∨
    (decodeWord op = .error (.unknownOpcode op) ∧ ∀ r ∈ opcodeMap, r.covers op = false)

/-- The document's bytes `A0 05 D0 05` are `0xA005`, which is `Annn` with `nnn = 0x005`, and `0xD005`, which is `Dxyn`
with `x = 0`, `y = 0`, `n = 5` (R64). -/
def Obligations.WorkedEncodingsDecode : Prop :=
  decodeWord 0xA005 = .ok (.ldI 0x005) ∧ decodeWord 0xD005 = .ok (.drw 0 0 5) ∧
  decodeBytes [0xA0, 0x05, 0xD0, 0x05] = .ok (.ldI 0x005, [0xD0, 0x05]) ∧
  decodeBytes [0xD0, 0x05] = .ok (.drw 0 0 5, [])

/-- One word at least for each of the sixteen families, written out from the opcode map, decodes to its instruction
(R56; nine patterns are of general knowledge, decision D23, log entry 13; that `9125` is an instruction is decision
D13, log entry 9). -/
def Obligations.FamilyWordsDecode : Prop :=
  decodeWord 0x0000 = .ok .nop ∧ decodeWord 0x00E0 = .ok .cls ∧ decodeWord 0x00EE = .ok .ret ∧
  decodeWord 0x1ABC = .ok (.jp 0xABC) ∧ decodeWord 0x220A = .ok (.call 0x20A) ∧
  decodeWord 0x3133 = .ok (.seImm 1 0x33) ∧ decodeWord 0x4134 = .ok (.sneImm 1 0x34) ∧
  decodeWord 0x5120 = .ok (.seReg 1 2) ∧ decodeWord 0x63AB = .ok (.ldImm 3 0xAB) ∧
  decodeWord 0x7305 = .ok (.addImm 3 5) ∧ decodeWord 0x8AB4 = .ok (.addReg 10 11) ∧
  decodeWord 0x9125 = .ok (.sneReg 1 2 5) ∧ decodeWord 0xA123 = .ok (.ldI 0x123) ∧
  decodeWord 0xB345 = .ok (.jpV0 0x345) ∧ decodeWord 0xC30F = .ok (.rnd 3 0x0F) ∧
  decodeWord 0xD125 = .ok (.drw 1 2 5) ∧ decodeWord 0xE49E = .ok (.skp 4) ∧ decodeWord 0xF255 = .ok (.storeRegs 2)

/-! ## Fetch and the cycle -/

/-- A fetch reads the byte at `PC` into bits 15:8 and the byte at `PC + 1` into bits 7:0 (R38). That it does so at
odd addresses as at even ones is decision D6 (R40, log entry 17). -/
def Obligations.FetchIsBigEndian : Prop :=
  ∀ s : State, s.pc.toNat ≤ 4094 →
    ∃ op, fetch s = .ok op ∧ op.toNat = (s.byteAt s.pc.toNat).toNat * 256 + (s.byteAt (s.pc.toNat + 1)).toNat

/-- A fetch at `PC` above 4095 faults on its first byte, at 4095 on its second, and a fetched word of no row of the
opcode map is an unknown opcode; the cycle takes each fault with nothing changed but the latch (R51, R58; the latch
is the spec's reading, decision D3). What the latch records is decision D4 (log entries 5, 18). -/
def Obligations.FetchAndDecodeFaultsAreTaken : Prop :=
  ∀ s : State, s.fault = none →
    (s.pc.toNat > 4095 → step s = .next (s.setFault (some ⟨.outOfMemoryAccess s.pc.toNat, s.pc, none⟩))) ∧
    (s.pc.toNat = 4095 → step s = .next (s.setFault (some ⟨.outOfMemoryAccess 4096, s.pc, none⟩))) ∧
    (s.pc.toNat ≤ 4094 → (∀ r ∈ opcodeMap, r.covers s.wordAtPc = false) →
      step s = .next (s.setFault (some ⟨.unknownOpcode s.wordAtPc, s.pc, some s.wordAtPc⟩)))

/-- A STEP RUNS THE DECODED INSTRUCTION: with a clear latch and bytes at `PC` that decode to a well-formed
instruction, a step is that instruction's execution, and adds nothing to it (R55). That a step is a cycle and
nothing more is the model's reading (log entry 6). -/
def Obligations.StepRunsTheDecodedInstruction : Prop :=
  ∀ (s : State) (i : Instr), s.fault = none → s.pc.toNat ≤ 4094 → i.wellFormed = true →
    decodeBytes [s.byteAt s.pc.toNat, s.byteAt (s.pc.toNat + 1)] = .ok (i, []) → step s = exec i s

/-- A word placed where the next fetch reads it is the instruction the next step runs (R38, R55). Placing a word
stands for a load (log entry 6). -/
def Obligations.PlacedWordIsRun : Prop :=
  ∀ (s : State) (w : Nat) (i : Instr), s.fault = none → s.mem.wf = true → s.pc.toNat ≤ 4094 →
    decodeTableWord 16 w = some i → step (s.withFetchWord 16 w) = exec i (s.withFetchWord 16 w)

/-- A latched core does nothing in a cycle, every run reports the latched fault and changes nothing, and of all
transactions that take place only a reset clears the latch (R55, R113, R117; the latch is decision D3). See log
entry 5. -/
def Obligations.LatchedCoreDoesNothingUntilReset : Prop :=
  ∀ (s : State) (r : FaultRecord), s.fault = some r →
    step s = .next s ∧ (∀ elapsed : Rat, 0 ≤ elapsed → runFor elapsed s = .done s (.faulted r)) ∧
    ∀ (a : Transaction) (t : State) (reply : Reply), transact a s = .done t reply →
      t.fault = some r ∨ ∃ cfg, a = .reset cfg ∧ t.fault = none

/-- FAULTS ARE PRECISE: a cycle that latches a fault, run on a paid credit as in a run, changes nothing of the state
before it, `PC` included, but the latch and the cycle credit it consumed (R112). The latch is decision D3 (log entry
5), and that a credit is taken before its cycle decision D25 (log entry 19). -/
def Obligations.FaultingCycleChangesNothingElse : Prop :=
  ∀ (s t : State) (r : FaultRecord), s.fault = none → step s.payCycle = .next t → t.fault = some r →
    t = (s.setCredits (s.cycleCredit - 1) s.timerCredit).setFault (some r)

/-- EXACTLY WHEN A CYCLE FAULTS: where the table of R110, read in the order of R114, names a fault, the cycle takes it,
the state kept and the latch holding that cause, the `PC`, and the opcode exactly when the fetch succeeded; where it
names none, the cycle latches nothing (the payload of R111 is decision D4, the latch D3, some bounds D8, D10, D22). -/
def Obligations.CycleFaultsExactlyAsTabled : Prop :=
  ∀ s : State, s.fault = none → s.sp.toNat ≤ 16 →
    (∀ c, s.cycleFault = some c →
      step s = .next (s.setFault (some ⟨c, s.pc, if s.pc.toNat ≤ 4094 then some s.wordAtPc else none⟩))) ∧
    (s.cycleFault = none → ∃ t, step s = .next t ∧ t.fault = none)

/-- Every instruction whose fault condition holds (R110) raises that fault, whatever its operands, before anything is
changed; every other completes without one. The bounds and the unmasked values are decisions D8, D10 and D22, the
latch D3. -/
def Obligations.ExecuteStageFaults : Prop :=
  ∀ (i : Instr) (s : State), s.sp.toNat ≤ 16 →
    (∀ c, i.faultWhen s = some c → exec i s = .next (s.setFault (some ⟨c, s.pc, some (encode i)⟩))) ∧
    (i.faultWhen s = none → ∃ t, exec i s = .next t ∧ t.fault = s.fault)

/-! ## Clear, no-operation, flow -/

/-- `0000` advances `PC` by 2 and changes nothing else, and no other word is a no-operation (R101). -/
def Obligations.NopAdvancesPcOnly : Prop :=
  (∀ s : State, exec .nop s = .next (s.setPc (s.pc + 2))) ∧ (∀ op : Word, decodeWord op = .ok .nop ↔ op = 0x0000)

/-- `00E0` resets every cell to unlit, advances `PC`, and changes nothing else, `VF` included (R100). -/
def Obligations.ClsUnlightsEveryCell : Prop :=
  ∀ s : State, ∃ t, exec .cls s = .next t ∧ (∀ r c, t.display.cell r c = false) ∧ t.pc = s.pc + 2 ∧
    t = (s.setDisplay t.display).setPc t.pc

/-- `1nnn` puts the zero-extended field into `PC` and changes nothing else; a jump to itself changes no state (R66, of
which the pattern is of general knowledge, G1). -/
def Obligations.JpSetsPcOnly : Prop :=
  ∀ (nnn : Addr) (s : State),
    (∃ t, exec (.jp nnn) s = .next t ∧ t.pc.toNat = nnn.toNat ∧ t = s.setPc t.pc) ∧
    (s.pc.toNat = nnn.toNat → exec (.jp nnn) s = .next s)

/-- `2nnn` pushes its own address, adds 1 to `SP` and jumps; with `SP` at 16 it raises `StackOverflow(op)` and
nothing changes but the latch (R67). The latch and what it records are decisions D3 and D4 (log entries 5, 18). -/
def Obligations.CallPushesItsOwnAddress : Prop :=
  ∀ (nnn : Addr) (s : State),
    (s.sp.toNat < 16 → ∃ t, exec (.call nnn) s = .next t ∧ t.stackEntry s.sp.toNat = some s.pc ∧
      (∀ k, k ≠ s.sp.toNat → t.stackEntry k = s.stackEntry k) ∧ t.sp.toNat = s.sp.toNat + 1 ∧
      t.pc.toNat = nnn.toNat ∧ t = (({ s with stack := t.stack }).setSp t.sp).setPc t.pc) ∧
    (s.sp.toNat = 16 → exec (.call nnn) s =
      .next (s.setFault (some ⟨.stackOverflow (encode (.call nnn)), s.pc, some (encode (.call nnn))⟩)))

/-- `00EE` with `SP` from 1 to 16 subtracts 1 from `SP` and puts the entry there plus 2 into `PC`, the entry kept;
with `SP` at 0 it raises `StackUnderflow(op)` and nothing changes but the latch (R68). The latch and what it records
are decisions D3 and D4 (log entries 5, 18). -/
def Obligations.RetPopsAndAddsTwo : Prop :=
  ∀ s : State,
    (0 < s.sp.toNat → s.sp.toNat ≤ 16 →
      ∃ entry t, s.stackEntry (s.sp.toNat - 1) = some entry ∧ exec .ret s = .next t ∧
        t.sp.toNat = s.sp.toNat - 1 ∧ t.pc = entry + 2 ∧ t = (s.setSp t.sp).setPc t.pc) ∧
    (s.sp.toNat = 0 → exec .ret s = .next (s.setFault (some ⟨.stackUnderflow 0x00EE, s.pc, some 0x00EE⟩)))

/-- A call and then a return bring `PC` to the call site plus 2 and `SP` back, and leave every entry below `SP`, every
register and all memory as they were (R67, R68). -/
def Obligations.CallThenReturn : Prop :=
  ∀ (nnn : Addr) (s t : State), s.sp.toNat < 16 → exec (.call nnn) s = .next t →
    ∃ u, exec .ret t = .next u ∧ u.pc = s.pc + 2 ∧ u.sp = s.sp ∧ u.v = s.v ∧ u.mem = s.mem ∧
      ∀ k, k < s.sp.toNat → u.stackEntry k = s.stackEntry k

/-- `Bnnn` jumps to the unbounded sum of its field and `V[0]` when that is at most 4095, and else raises
`OutOfMemoryAccess` of it; nothing else changes (R69, of which the pattern is of general knowledge, G2). The latch
and what it records are decisions D3 and D4 (log entries 5, 18). -/
def Obligations.JpV0ChecksItsTarget : Prop :=
  ∀ (nnn : Addr) (s : State),
    (nnn.toNat + (s.getV 0).toNat ≤ 4095 →
      ∃ t, exec (.jpV0 nnn) s = .next t ∧ t.pc.toNat = nnn.toNat + (s.getV 0).toNat ∧ t = s.setPc t.pc) ∧
    (nnn.toNat + (s.getV 0).toNat > 4095 → exec (.jpV0 nnn) s =
      .next (s.setFault
        (some ⟨.outOfMemoryAccess (nnn.toNat + (s.getV 0).toNat), s.pc, some (encode (.jpV0 nnn))⟩)))

/-! ## Skips -/

/-- The four register skips advance `PC` by 4 when the predicate holds, else by 2, and change nothing else; the
ignored nibble of `9xyN` plays no part (R70 to R74; the polarity of each pair is of general knowledge, G8, the nibble
decision D13). -/
def Obligations.RegisterSkips : Prop :=
  ∀ (x y : Reg) (kk : Byte) (ignored : Nibble) (s : State),
    exec (.seImm x kk) s = .next (s.setPc (if s.getV x = kk then s.pc + 4 else s.pc + 2)) ∧
    exec (.sneImm x kk) s = .next (s.setPc (if s.getV x ≠ kk then s.pc + 4 else s.pc + 2)) ∧
    exec (.seReg x y) s = .next (s.setPc (if s.getV x = s.getV y then s.pc + 4 else s.pc + 2)) ∧
    exec (.sneReg x y ignored) s = .next (s.setPc (if s.getV x ≠ s.getV y then s.pc + 4 else s.pc + 2))

/-- The two key skips, keyed by the whole value of `V[x]` when it is at most 15 (R75, R76; polarity of general
knowledge, G8). -/
def Obligations.KeySkips : Prop :=
  ∀ (x k : Reg) (s : State), (s.getV x).toNat = k.val →
    exec (.skp x) s = .next (s.setPc (if s.key k = true then s.pc + 4 else s.pc + 2)) ∧
    exec (.sknp x) s = .next (s.setPc (if s.key k = false then s.pc + 4 else s.pc + 2))

/-! ## Register load, logic, arithmetic, shifts -/

/-- `6xkk`, `8xy0`, `8xy1`, `8xy2`, `8xy3`: the value of the rule goes to `V[x]`, `PC` advances, nothing else changes,
no flag is written (R80, R82 to R85; the meanings are of general knowledge, G4, G6, the missing flag decision D20). -/
def Obligations.LoadCopyAndLogic : Prop :=
  ∀ (x y : Reg) (kk : Byte) (s : State),
    exec (.ldImm x kk) s = .next ((s.setV x kk).setPc (s.pc + 2)) ∧
    exec (.ldReg x y) s = .next ((s.setV x (s.getV y)).setPc (s.pc + 2)) ∧
    exec (.orReg x y) s = .next ((s.setV x (s.getV x ||| s.getV y)).setPc (s.pc + 2)) ∧
    exec (.andReg x y) s = .next ((s.setV x (s.getV x &&& s.getV y)).setPc (s.pc + 2)) ∧
    exec (.xorReg x y) s = .next ((s.setV x (s.getV x ^^^ s.getV y)).setPc (s.pc + 2))

/-- `7xkk` adds mod 256 to `V[x]` and writes no flag: every other register is as it was (R81; the meaning is of general
knowledge, G5, the missing flag decision D20). -/
def Obligations.AddImmediateWithoutFlag : Prop :=
  ∀ (x : Reg) (kk : Byte) (s : State), ∃ t, exec (.addImm x kk) s = .next t ∧
    (t.getV x).toNat = ((s.getV x).toNat + kk.toNat) % 256 ∧ (∀ r, r ≠ x → t.getV r = s.getV r) ∧ t.pc = s.pc + 2

/-- `8xy4` for every `x` and `y`: the sum mod 256 is in `V[x]`, and unless `V[x]` is `VF` itself, `VF` is 1 exactly when
the exact sum exceeds 255 and else 0 (R77, R86; operands read first and the result written last, decision D7). -/
def Obligations.AddSetsCarry : Prop :=
  ∀ (x y : Reg) (s : State), ∃ t, exec (.addReg x y) s = .next t ∧
    (t.getV x).toNat = ((s.getV x).toNat + (s.getV y).toNat) % 256 ∧
    (x ≠ regF → t.getV regF = if (s.getV x).toNat + (s.getV y).toNat > 255 then 1 else 0) ∧
    (∀ r, r ≠ x → r ≠ regF → t.getV r = s.getV r) ∧ t.pc = s.pc + 2

/-- `8xy5` and `8xy7`: the difference mod 256 is in `V[x]`, and unless `V[x]` is `VF` itself, `VF` is 1 exactly when there
is no borrow and else 0 (R77, R87, R89; order of reads and writes decision D7). -/
def Obligations.SubtractSetsNoBorrow : Prop :=
  ∀ (x y : Reg) (s : State),
    (∃ t, exec (.subReg x y) s = .next t ∧ t.getV x = s.getV x - s.getV y ∧
      (x ≠ regF → t.getV regF = if (s.getV x).toNat ≥ (s.getV y).toNat then 1 else 0) ∧
      (∀ r, r ≠ x → r ≠ regF → t.getV r = s.getV r) ∧ t.pc = s.pc + 2) ∧
    (∃ t, exec (.subn x y) s = .next t ∧ t.getV x = s.getV y - s.getV x ∧
      (x ≠ regF → t.getV regF = if (s.getV y).toNat ≥ (s.getV x).toNat then 1 else 0) ∧
      (∀ r, r ≠ x → r ≠ regF → t.getV r = s.getV r) ∧ t.pc = s.pc + 2)

/-- `8xy6` and `8xyE` shift their source, `V[x]` with `SHIFT_QUIRK` and `V[y]` without, by one bit with zero fill into
`V[x]`, and unless `V[x]` is `VF` itself, `VF` is the bit shifted out (R79, R88, R90; zero fill of general knowledge, G7,
order decision D7). -/
def Obligations.ShiftsReportTheBitShiftedOut : Prop :=
  ∀ (x y : Reg) (s : State) (src : Byte), src = (if s.shiftQuirk = true then s.getV x else s.getV y) →
    (∃ t, exec (.shr x y) s = .next t ∧ t.getV x = src >>> 1 ∧
      (x ≠ regF → t.getV regF = if src.getLsbD 0 = true then 1 else 0) ∧
      (∀ r, r ≠ x → r ≠ regF → t.getV r = s.getV r) ∧ t.pc = s.pc + 2) ∧
    (∃ t, exec (.shl x y) s = .next t ∧ t.getV x = src <<< 1 ∧
      (x ≠ regF → t.getV regF = if src.getLsbD 7 = true then 1 else 0) ∧
      (∀ r, r ≠ x → r ≠ regF → t.getV r = s.getV r) ∧ t.pc = s.pc + 2)

/-! ## Random -/

/-- `Cxkk` takes exactly one draw, a free value, and puts it masked into `V[x]`; `PC` advances, nothing else changes
(R92). The form of the draw is the model's (decision D11, log entry 4). -/
def Obligations.RndMasksOneDraw : Prop :=
  ∀ (x : Reg) (kk : Byte) (s : State), ∃ t, exec (.rnd x kk) s = .next t ∧
    t.getV x = Config.randomDraw s.draws &&& kk ∧ t.draws = s.draws + 1 ∧ t.pc = s.pc + 2 ∧
    t = ((s.setV x (t.getV x)).setDraws t.draws).setPc t.pc

/-! ## Draw -/

/-- `Dxyn` with `I + n` at most 4096 toggles exactly the cells its sprite covers, sets `VF` to 1 if one of them was lit
and else to 0, advances `PC`, and changes nothing else (R93, R94; bit order, unreduced sums and the bound are decisions
D9 and D8, the reads before the write of `VF` decision D7). -/
def Obligations.DrawTogglesCoveredCells : Prop :=
  ∀ (x y : Reg) (n : Nibble) (s : State), s.i.toNat + n.toNat ≤ 4096 →
    ∃ t, exec (.drw x y n) s = .next t ∧
      (∀ r c, (t.display.cell r c = true ↔ (s.display.cell r c = true ↔ ¬ spriteCovers s x y n r c))) ∧
      ((∃ r c, spriteCovers s x y n r c ∧ s.display.cell r c = true) → t.getV regF = 1) ∧
      ((¬ ∃ r c, spriteCovers s x y n r c ∧ s.display.cell r c = true) → t.getV regF = 0) ∧
      t = ((s.setDisplay t.display).setV regF (t.getV regF)).setPc (s.pc + 2)

/-- The same sprite drawn twice at the same place restores the display (R94). The second draw collides exactly when
the sprite covers a cell that was unlit at first: the model's choice by the pseudocode of R94, against the remark
under R94 that `VF` is 1 the second time whenever the sprite has a 1 bit on screen (log entry 10). The geometry is
decision D9, the bound decision D8 (log entry 10). -/
def Obligations.DrawTwiceRestores : Prop :=
  ∀ (x y : Reg) (n : Nibble) (s t u : State), s.i.toNat + n.toNat ≤ 4096 →
    exec (.drw x y n) s = .next t → t.getV x = s.getV x → t.getV y = s.getV y →
    exec (.drw x y n) t = .next u →
    u.display = s.display ∧ (u.getV regF = 1 ↔ ∃ r c, spriteCovers s x y n r c ∧ s.display.cell r c = false)

/-! ## Stores and loads -/

/-- `Fx55` inside the memory stores `V[k]` at `I + k` for `k` up to `x` and no other byte, and advances `I` by `x + 1`
unless `LOAD_STORE_QUIRK` is set (R95, R96; the bound is decision D22). -/
def Obligations.StoreMovesTheBlock : Prop :=
  ∀ (x : Reg) (s : State), s.mem.wf = true → s.i.toNat + x.val ≤ 4095 →
    ∃ t, exec (.storeRegs x) s = .next t ∧
      (∀ k : Reg, k ≤ x → t.byteAt (s.i.toNat + k.val) = s.getV k) ∧
      (∀ a, a < s.i.toNat ∨ s.i.toNat + x.val < a → t.byteAt a = s.byteAt a) ∧
      t.i.toNat = (if s.loadStoreQuirk = true then s.i.toNat else s.i.toNat + x.val + 1) ∧
      t = ((s.setMem t.mem).setI t.i).setPc (s.pc + 2)

/-- `Fx65` inside the memory loads `V[k]` from `I + k` for `k` up to `x` and no other register, leaves memory as it is,
and advances `I` as the store does (R95, R97; the bound is decision D22). -/
def Obligations.LoadMovesTheBlock : Prop :=
  ∀ (x : Reg) (s : State), s.i.toNat + x.val ≤ 4095 →
    ∃ t, exec (.loadRegs x) s = .next t ∧
      (∀ k : Reg, k ≤ x → t.getV k = s.byteAt (s.i.toNat + k.val)) ∧
      (∀ k : Reg, x < k → t.getV k = s.getV k) ∧
      t.i.toNat = (if s.loadStoreQuirk = true then s.i.toNat else s.i.toNat + x.val + 1) ∧
      t = ((s.setAllV t.v).setI t.i).setPc (s.pc + 2)

/-- `Fx33` stores the three decimal digits of `V[x]`, each a whole byte of 0 to 9, at `I`, `I + 1`, `I + 2`, and no
other byte; `I` and the registers are unchanged. With `I` above 4093 it raises `OutOfMemoryAccess` and stores
nothing (R98). The latch and what it records are decisions D3 and D4 (log entries 5, 18), the bound D22 (log entry
11). -/
def Obligations.BcdStoresTheDigits : Prop :=
  ∀ (x : Reg) (s : State), s.mem.wf = true →
    (s.i.toNat ≤ 4093 → ∃ t, exec (.ldBcd x) s = .next t ∧
      (t.byteAt s.i.toNat).toNat = (s.getV x).toNat / 100 ∧
      (t.byteAt (s.i.toNat + 1)).toNat = (s.getV x).toNat / 10 % 10 ∧
      (t.byteAt (s.i.toNat + 2)).toNat = (s.getV x).toNat % 10 ∧
      (∀ a, a < s.i.toNat ∨ s.i.toNat + 2 < a → t.byteAt a = s.byteAt a) ∧
      t = (s.setMem t.mem).setPc (s.pc + 2)) ∧
    (s.i.toNat > 4093 → exec (.ldBcd x) s =
      .next (s.setFault (some ⟨.outOfMemoryAccess (max s.i.toNat 4096), s.pc, some (encode (.ldBcd x))⟩)))

/-- A store is seen by the next fetch: two stored registers under the next `PC` are the word fetched (R49, which the
spec marks derived). -/
def Obligations.StoreIsSeenByTheNextFetch : Prop :=
  ∀ (x k j : Reg) (s t : State), s.mem.wf = true → s.i.toNat + x.val ≤ 4095 → exec (.storeRegs x) s = .next t →
    j.val = k.val + 1 → j ≤ x → t.pc.toNat = s.i.toNat + k.val → fetch t = .ok (opOfBytes (s.getV k) (s.getV j))

/-! ## Key wait, index, timers -/

/-- `Fx0A` stores the index of the lowest key that is down in `V[x]` and advances `PC`, and with no key down changes
nothing at all (R99). -/
def Obligations.KeyWaitTakesTheLowestKey : Prop :=
  ∀ (x : Reg) (s : State),
    (∀ k : Reg, s.key k = true → (∀ j : Reg, j < k → s.key j = false) →
      exec (.ldKey x) s = .next ((s.setV x (BitVec.ofNat 8 k.val)).setPc (s.pc + 2))) ∧
    ((∀ k : Reg, s.key k = false) → exec (.ldKey x) s = .next s)

/-- A key wait with no key down stalls for as many cycles as are run: each consumes its credit and changes no other
state (R99, R141). When a credit is taken is decision D25 (log entry 19). -/
def Obligations.StalledKeyWaitOnlySpendsCredit : Prop :=
  ∀ (x : Reg) (n : Nat) (s : State), s.fault = none → fetchDecode s = .ok (.ldKey x) → (∀ k : Reg, s.key k = false) →
    runCycles n s = .next (s.setCredits (s.cycleCredit - n) s.timerCredit)

/-- `Annn` and `Fx1E`: `I` is the zero-extended field, or the sum with `V[x]` mod 65536 whatever its size; `PC` advances;
no flag is written and nothing else changes (R103, R104; general knowledge G3, G9, decisions D15, D20). -/
def Obligations.IndexLoadAndAdd : Prop :=
  ∀ (nnn : Addr) (x : Reg) (s : State),
    (∃ t, exec (.ldI nnn) s = .next t ∧ t.i.toNat = nnn.toNat ∧ t = (s.setI t.i).setPc (s.pc + 2)) ∧
    (∃ t, exec (.addI x) s = .next t ∧ t.i.toNat = (s.i.toNat + (s.getV x).toNat) % 65536 ∧
      t = (s.setI t.i).setPc (s.pc + 2))

/-- `Fx29`: `I` is five times a digit of at most 15, and a larger value raises `InvalidDigit` of it, unmasked (R105;
pattern of general knowledge, G10, address decision D24). The latch and what it records are decisions D3 and D4 (log
entries 5, 18). -/
def Obligations.GlyphAddress : Prop :=
  ∀ (x : Reg) (s : State),
    ((s.getV x).toNat ≤ 15 → ∃ t, exec (.ldFont x) s = .next t ∧ t.i.toNat = 5 * (s.getV x).toNat ∧
      t = (s.setI t.i).setPc (s.pc + 2)) ∧
    ((s.getV x).toNat > 15 → exec (.ldFont x) s =
      .next (s.setFault (some ⟨.invalidDigit (s.getV x).toNat, s.pc, some (encode (.ldFont x))⟩)))

/-- `Fx07`, `Fx15`, `Fx18` move `DT` to `V[x]`, `V[x]` to `DT` and `V[x]` to `ST`, and the sound flag follows `ST` at once
(R106 to R108; whole instructions of general knowledge, G9). -/
def Obligations.TimerMoves : Prop :=
  ∀ (x : Reg) (s : State),
    exec (.ldFromDt x) s = .next ((s.setV x s.dt).setPc (s.pc + 2)) ∧
    exec (.ldDt x) s = .next ((s.setDt (s.getV x)).setPc (s.pc + 2)) ∧
    ∃ t, exec (.ldSt x) s = .next t ∧ t = (s.setSt (s.getV x)).setPc (s.pc + 2) ∧
      (soundOn t = true ↔ (s.getV x).toNat > 0)

/-! ## Frames, over all instructions -/

/-- Every instruction leaves every general register as it was but those that the write rows of R13 and R14 give it,
`VF` among the registers, and `I` unless R15 lets it write it. That no other instruction writes `VF` is decision D20
(log entry 14). -/
def Obligations.FrameOfRegistersAndIndex : Prop :=
  ∀ (i : Instr) (s t : State), exec i s = .next t →
    (∀ r : Reg, i.mayWriteV r = false → t.getV r = s.getV r) ∧ (i.mayWriteI s = false → t.i = s.i)

/-- Every instruction but the call and the return leaves `SP`, every instruction leaves each stack entry but the one the
call pushes, every instruction but `Fx15` leaves `DT` and every instruction but `Fx18` leaves `ST` (R18 to R21). -/
def Obligations.FrameOfStackAndTimers : Prop :=
  ∀ (i : Instr) (s t : State), exec i s = .next t →
    (i.mayWriteSp = false → t.sp = s.sp) ∧
    (∀ k : Nat, i.mayWriteStack s k = false → t.stackEntry k = s.stackEntry k) ∧
    (i.mayWriteDt = false → t.dt = s.dt) ∧ (i.mayWriteSt = false → t.st = s.st)

/-- Every instruction leaves every byte of memory outside the bytes it stores to, counted from the `I` its meaning stores
at, and every instruction but `00E0` and `Dxyn` leaves the display (R24, R35). -/
def Obligations.FrameOfMemoryAndDisplay : Prop :=
  ∀ (i : Instr) (s t : State), s.mem.wf = true → exec i s = .next t →
    (∀ a : Nat, i.stores s a = false → t.byteAt a = s.byteAt a) ∧
    (i.mayWriteDisplay = false → t.display = s.display)

/-- No instruction changes a key, a mode flag, the period, a credit or the session; only `Cxkk` takes a draw; and
the latch changes only by a fault of this very instruction, with everything else kept (R32, R55, R61, R91). The
session and the number of the draw are the model's own fields (log entries 4, 15), the latch and what it records
decisions D3 and D4 (log entries 5, 18). -/
def Obligations.FrameOfHostStateAndLatch : Prop :=
  ∀ (i : Instr) (s t : State), exec i s = .next t →
    s.sameOutside t ∧ (i.takesDraw = false → t.draws = s.draws) ∧
    (t.fault = s.fault ∨ ∃ c, t = s.setFault (some ⟨c, s.pc, some (encode i)⟩))

/-! ## Invariants and whole-machine rules -/

/-- The invariants of the core and of its clock hold after every reset with a configuration that reset accepts, and
in `State.reset` (R31, R132, R133). Some reset values are decision D5 (log entry 1). -/
def Obligations.ResetMeetsTheInvariants : Prop :=
  State.reset.Inv ∧ State.reset.ClockInv ∧
  ∀ cfg : SessionConfig, cfg.wellFormed = true → (State.resetWith cfg).Inv ∧ (State.resetWith cfg).ClockInv

/-- EVERY STEP KEEPS THE INVARIANT of the core (R17, R18, R31): `SP` at most 16, `PC` at most 4098, every live stack
entry at most 4094, the memory canonical and inside its 4096 bytes, the latch a cycle fault at the present `PC`. The
canonical form is the model's (log entry 20), the latch decision D3 (log entry 5). -/
def Obligations.StepKeepsTheInvariant : Prop :=
  ∀ s t : State, s.Inv → step s = .next t → t.Inv

/-- EVERY TRANSACTION OF THE HOST KEEPS BOTH INVARIANTS, that of the core and that of the clock adapter, whose
credits are below 1 between runs unless a fault cut a run short (R28, R31, R123, R127). Exact credits are decision
D2, a fault in a run decision D19 (log entry 19). -/
def Obligations.TransactionKeepsTheInvariants : Prop :=
  ∀ (a : Transaction) (s t : State) (reply : Reply), s.Inv → s.ClockInv → transact a s = .done t reply →
    t.Inv ∧ t.ClockInv

/-- From every state that meets the invariant a step answers a next state: no instruction is refused and none stops
the model; faults are taken (R54, R60, R113). A fault taken is a next state by decision D3 (log entry 5). -/
def Obligations.StepAlwaysAnswersANextState : Prop :=
  ∀ s : State, s.Inv → ∃ t, step s = .next t

/-- Memories in canonical form that read the same at every address are the same data (R25, R34; the form is the model's,
log entry 20). -/
def Obligations.EqualBytesAreEqualMemory : Prop :=
  ∀ m m' : Memory, m.wf = true → m'.wf = true → (∀ a, a ≤ 4095 → m.read a = m'.read a) → m = m'

/-! ## Reset and the host interface -/

/-- What reset leaves where the source states a value, for every configuration: `PC` at 0x200, `SP`, `DT`, `ST` 0, the
display unlit, the font in 0x000 to 0x04F and zero in all other memory, the sound flag off, and the configuration
latched (R132, R133 rows marked stated; the font is the `FONT` argument, decision D12). -/
def Obligations.ResetStatedValues : Prop :=
  ∀ (cfg : SessionConfig) (s : State), cfg.wellFormed = true →
    ∃ t, transact (.reset cfg) s = .done t .ok ∧ t.pc = 0x200 ∧ t.sp = 0 ∧ t.dt = 0 ∧ t.st = 0 ∧ soundOn t = false ∧
      (∀ r c, t.display.cell r c = false) ∧
      (∀ (d : Fin 16) (k : Fin 5), t.byteAt (5 * d.val + k.val) = cfg.font[d.val][k.val]) ∧
      (∀ a, 80 ≤ a → t.byteAt a = 0) ∧
      t.period = cfg.period ∧ t.loadStoreQuirk = cfg.loadStoreQuirk ∧ t.shiftQuirk = cfg.shiftQuirk ∧
      t.wrapping = cfg.wrapping

/-- What reset leaves where the spec chose the value (decisions D3, D5; log entries 1, 5): `V`, `I`, stack, credits 0, the
keys up, the latch clear; and a load is allowed again (log entry 15). -/
def Obligations.ResetChosenValues : Prop :=
  ∀ (cfg : SessionConfig) (s : State), cfg.wellFormed = true →
    ∃ t, transact (.reset cfg) s = .done t .ok ∧ (∀ r, t.getV r = 0) ∧ t.i = 0 ∧
      (∀ k, k < 16 → t.stackEntry k = some 0) ∧ (∀ k, t.key k = false) ∧ t.cycleCredit = 0 ∧ t.timerCredit = 0 ∧
      t.fault = none ∧ t.session = .fresh

/-- `load(image)` on a fresh core writes byte `k` of an image of at most 3584 bytes to 0x200 + `k` and changes only memory
(and the session, log entry 15); a longer image is `ImageTooLarge`; a load after that is refused (R134; the order is
decision D16). -/
def Obligations.LoadPlacesTheImage : Prop :=
  ∀ (image : List Byte) (s : State), s.mem.wf = true →
    (s.session = .fresh → image.length ≤ 3584 →
      ∃ t, transact (.load image) s = .done t .ok ∧
        (∀ (k : Nat) (b : Byte), image[k]? = some b → t.byteAt (0x200 + k) = b) ∧
        (∀ a, a < 0x200 ∨ 0x200 + image.length ≤ a → t.byteAt a = s.byteAt a) ∧
        t = (s.setMem t.mem).setSession .loaded ∧
        ∀ again, transact (.load again) t = .refused .loadOutOfOrder) ∧
    (s.session = .fresh → image.length > 3584 → transact (.load image) s = .rejected s (.imageTooLarge image.length)) ∧
    (s.session ≠ .fresh → transact (.load image) s = .refused .loadOutOfOrder)

/-- `set_key(k, down)` with `k` at most 15 sets that level and no other state; above 15 it is `UnknownKey(k)`
(R126). When keys may change is decision D18 (log entry 21). -/
def Obligations.SetKeySetsOneLevel : Prop :=
  ∀ (k : Nat) (down : Bool) (s : State),
    (∀ h : k ≤ 15, ∃ t, transact (.setKey k down) s = .done t .ok ∧ t.key ⟨k, by omega⟩ = down ∧
      (∀ j : Reg, j.val ≠ k → t.key j = s.key j) ∧ t = { s with keys := t.keys }) ∧
    (k > 15 → transact (.setKey k down) s = .rejected s (.unknownKey k))

/-- One tick takes 1 from each timer that is above 0, leaves a timer at 0 at 0, and changes nothing else (R121). -/
def Obligations.TickSaturatesAtZero : Prop :=
  ∀ s : State, (tick s).dt.toNat = s.dt.toNat - 1 ∧ (tick s).st.toNat = s.st.toNat - 1 ∧
    tick s = (s.setDt (tick s).dt).setSt (tick s).st

/-- The sound flag is `ST > 0`. `Fx18` moves it to whether `V[x] > 0` and a tick to whether `ST > 1`; reset leaves
it silent; no other instruction and no other transaction but a run moves it (R122). `Fx18` is of general knowledge
(decision D23, log entry 13), and the silence after reset is marked derived in R122 and R133. -/
def Obligations.SoundFlagTransitions : Prop :=
  ∀ s : State, transact .soundOn s = .done s (.sound (soundOn s)) ∧ (soundOn s = true ↔ s.st.toNat > 0) ∧
    (soundOn (tick s) = true ↔ s.st.toNat > 1) ∧
    (∀ (x : Reg) (t : State), exec (.ldSt x) s = .next t → (soundOn t = true ↔ (s.getV x).toNat > 0)) ∧
    (∀ (i : Instr) (t : State), (∀ x, i ≠ .ldSt x) → exec i s = .next t → soundOn t = soundOn s) ∧
    (∀ (cfg : SessionConfig) (t : State) (reply : Reply), transact (.reset cfg) s = .done t reply → soundOn t = false) ∧
    (∀ (a : Transaction) (t : State) (reply : Reply), (∀ cfg, a ≠ .reset cfg) → (∀ elapsed, a ≠ .run elapsed) →
      transact a s = .done t reply → soundOn t = soundOn s)

/-- The display transaction returns 2048 cells, cell number `64 * r + c` the cell of row `r` and column `c`, and has no
effect (R24, R128). -/
def Obligations.DisplayViewIsRowMajor : Prop :=
  ∀ s : State, ∃ cells, transact .display s = .done s (.cells cells) ∧ cells.length = 2048 ∧
    ∀ (r : Fin 32) (c : Fin 64), cells[64 * r.val + c.val]? = some (s.display.cell r c)

/-- A run with no fault issues `N = floor(c + elapsed / P)` cycles and then `M = floor(t + 60 elapsed)` ticks, and
does nothing else: it ends in the state after the cycles with `M` ticks done, each timer counted down `M` times, not
below 0, and leaves both credits less what was issued, in `[0, 1)` (R123, in exact rationals, decision D2, log entry
19). It ends the phase in which a load is allowed (R134, decision D16, log entry 15). -/
def Obligations.RunIssuesWholeCredits : Prop :=
  ∀ (elapsed : Rat) (s t : State), 0 ≤ elapsed → s.ClockInv → runFor elapsed s = .done t .ok →
    t.cycleCredit = s.cycleCredit + elapsed / s.period - issuedCycles elapsed s ∧
    0 ≤ t.cycleCredit ∧ t.cycleCredit < 1 ∧
    t.timerCredit = s.timerCredit + elapsed * 60 - issuedTicks elapsed s ∧ 0 ≤ t.timerCredit ∧ t.timerCredit < 1 ∧
    t.session = .started ∧
    ∃ u, runCycles (issuedCycles elapsed s) ((s.accrue elapsed).setSession .started) = .next u ∧ u.fault = none ∧
      t = runTicks (issuedTicks elapsed s) u ∧
      t.dt.toNat = u.dt.toNat - issuedTicks elapsed s ∧ t.st.toNat = u.st.toNat - issuedTicks elapsed s ∧
      t = ((u.setDt t.dt).setSt t.st).setCredits u.cycleCredit t.timerCredit

/-- THE RATES ARE EXACT HOWEVER THE TIME IS CUT UP: over any series of runs without a fault from credits of 0, the
cycles issued are `floor(sum / P)` and the ticks `floor(60 sum)` (R124, which the spec marks derived). Exact
rationals are decision D2 (log entry 19). -/
def Obligations.RatesAreIndependentOfTheSlicing : Prop :=
  ∀ (slices : List Rat) (s u : State) (n m : Nat), 0 < s.period → s.cycleCredit = 0 → s.timerCredit = 0 →
    (∀ d ∈ slices, 0 ≤ d) → runSeries slices s = some (n, m, u) →
    (n : Int) = Rat.floor (slices.sum / s.period) ∧ (m : Int) = Rat.floor (slices.sum * 60)

/-- A fault inside a run ends it: `k` cycles have their effects, the next one latches the fault, no later cycle and no tick
is executed, and the credits stay as they were then (R125, decision D19 of the spec). -/
def Obligations.FaultEndsTheRun : Prop :=
  ∀ (elapsed : Rat) (s t : State) (r : FaultRecord), 0 ≤ elapsed → s.fault = none →
    runFor elapsed s = .done t (.faulted r) →
    ∃ (k : Nat) (u : State), k < issuedCycles elapsed s ∧
      runCycles k ((s.accrue elapsed).setSession .started) = .next u ∧ u.fault = none ∧
      step u.payCycle = .next t ∧ t.fault = some r ∧
      t = (u.setCredits (u.cycleCredit - 1) u.timerCredit).setFault (some r) ∧
      t.cycleCredit = s.cycleCredit + elapsed / s.period - (k + 1) ∧ t.timerCredit = s.timerCredit + elapsed * 60

/-- WHO MAY CHANGE WHAT, over the six transactions: keys only by a key set, the memory only by a run or a load,
registers, `PC`, stack, display, timers and credits only by a run, the configuration by none, and all of it by reset
(R32). The form of the interface is decision D1. -/
def Obligations.OwnershipOfState : Prop :=
  ∀ (a : Transaction) (s t : State) (reply : Reply), transact a s = .done t reply → (∀ cfg, a ≠ .reset cfg) →
    (t.period = s.period ∧ t.loadStoreQuirk = s.loadStoreQuirk ∧ t.shiftQuirk = s.shiftQuirk ∧ t.wrapping = s.wrapping) ∧
    ((∀ k down, a ≠ .setKey k down) → t.keys = s.keys) ∧
    ((∀ elapsed, a ≠ .run elapsed) →
      t.v = s.v ∧ t.i = s.i ∧ t.pc = s.pc ∧ t.sp = s.sp ∧ t.stack = s.stack ∧ t.display = s.display ∧ t.dt = s.dt ∧
      t.st = s.st ∧ t.cycleCredit = s.cycleCredit ∧ t.timerCredit = s.timerCredit ∧ t.fault = s.fault ∧
      ((∀ image, a ≠ .load image) → t.mem = s.mem))

/-- A host-transaction error, `ImageTooLarge` of a load or `UnknownKey` of a key set, rejects that one transaction alone:
the state is the one before it, its latch included, and the session goes on from there as if the transaction had not
been asked for, so that the host may try again (R119; the bound of a load is R134, that of a key R126). -/
def Obligations.RejectedTransactionChangesNothing : Prop :=
  ∀ (a : Transaction) (s t : State) (cause : Cause), transact a s = .rejected t cause →
    t = s ∧
    ((∃ image, a = .load image ∧ image.length > 3584 ∧ cause = .imageTooLarge image.length) ∨
      ∃ k down, a = .setKey k down ∧ k > 15 ∧ cause = .unknownKey k) ∧
    ∀ rest : List Transaction, transactAll (a :: rest) s = transactAll rest s
end

