-- ==== Sys2Proof/Laws/Encoding.lean ====
section
/-! SUPPORT. Each field of each format read back from the word the encoder makes (R52, R53), and the bytes of a word
(R38). -/

namespace Sys2Proof

/-! ## The bits of each format -/

section
variable (f : Nibble)

theorem bit_encodeNNN (a : Addr) (k : Nat) :
    (encodeNNN f a).getLsbD k = if k < 12 then a.getLsbD k else f.getLsbD (k - 12) := by
  have h : (encodeNNN f a).getLsbD k = _ := BitVec.getLsbD_append (x := f) (y := a) (i := k)
  simpa using h

theorem bit_encodeXKK (x : Reg) (kk : Byte) (k : Nat) :
    (encodeXKK f x kk).getLsbD k =
      if k < 8 then kk.getLsbD k
      else if k - 8 < 4 then (BitVec.ofFin (w := 4) x).getLsbD (k - 8) else f.getLsbD (k - 8 - 4) := by
  have h : (encodeXKK f x kk).getLsbD k = _ :=
    BitVec.getLsbD_append (x := f ++ BitVec.ofFin (w := 4) x) (y := kk) (i := k)
  rw [h, BitVec.getLsbD_append]

theorem bit_encodeXYN (x y : Reg) (n : Nibble) (k : Nat) :
    (encodeXYN f x y n).getLsbD k =
      if k < 4 then n.getLsbD k
      else if k - 4 < 4 then (BitVec.ofFin (w := 4) y).getLsbD (k - 4)
      else if k - 4 - 4 < 4 then (BitVec.ofFin (w := 4) x).getLsbD (k - 4 - 4) else f.getLsbD (k - 4 - 4 - 4) := by
  have h : (encodeXYN f x y n).getLsbD k = _ :=
    BitVec.getLsbD_append (x := f ++ BitVec.ofFin (w := 4) x ++ BitVec.ofFin (w := 4) y) (y := n) (i := k)
  rw [h, BitVec.getLsbD_append, BitVec.getLsbD_append]

theorem bit_opOfBytes (hi lo : Byte) (k : Nat) :
    (opOfBytes hi lo).getLsbD k = if k < 8 then lo.getLsbD k else hi.getLsbD (k - 8) := by
  have h : (opOfBytes hi lo).getLsbD k = _ := BitVec.getLsbD_append (x := hi) (y := lo) (i := k)
  simpa using h

/-! ## The fields of each format -/

@[simp] theorem opFamily_encodeNNN (a : Addr) : opFamily (encodeNNN f a) = f := by
  apply BitVec.eq_of_getLsbD_eq; intro k hk
  simp [opFamily, bit_encodeNNN, hk]

@[simp] theorem opNNN_encodeNNN (a : Addr) : opNNN (encodeNNN f a) = a := by
  apply BitVec.eq_of_getLsbD_eq; intro k hk
  simp [opNNN, bit_encodeNNN, hk]

@[simp] theorem opFamily_encodeXKK (x : Reg) (kk : Byte) : opFamily (encodeXKK f x kk) = f := by
  apply BitVec.eq_of_getLsbD_eq; intro k hk
  simp [opFamily, bit_encodeXKK, hk, show ¬ 12 + k < 8 by omega, show 12 + k - 8 = 4 + k by omega]

@[simp] theorem opX_encodeXKK (x : Reg) (kk : Byte) : opX (encodeXKK f x kk) = x := by
  have h : (encodeXKK f x kk).extractLsb' 8 4 = BitVec.ofFin (w := 4) x := by
    apply BitVec.eq_of_getLsbD_eq; intro k hk
    simp [bit_encodeXKK, hk]
  simp [opX, h]

@[simp] theorem opKK_encodeXKK (x : Reg) (kk : Byte) : opKK (encodeXKK f x kk) = kk := by
  apply BitVec.eq_of_getLsbD_eq; intro k hk
  simp [opKK, bit_encodeXKK, hk]

@[simp] theorem opFamily_encodeXYN (x y : Reg) (n : Nibble) : opFamily (encodeXYN f x y n) = f := by
  apply BitVec.eq_of_getLsbD_eq; intro k hk
  simp [opFamily, bit_encodeXYN, hk, show ¬ 12 + k < 4 by omega, show ¬ 8 + k < 4 by omega, show 12 + k - 4 = 8 + k by omega,
    show 8 + k - 4 = 4 + k by omega]

@[simp] theorem opX_encodeXYN (x y : Reg) (n : Nibble) : opX (encodeXYN f x y n) = x := by
  have h : (encodeXYN f x y n).extractLsb' 8 4 = BitVec.ofFin (w := 4) x := by
    apply BitVec.eq_of_getLsbD_eq; intro k hk
    simp [bit_encodeXYN, hk, show ¬ 8 + k < 4 by omega, show 8 + k - 4 = 4 + k by omega]
  simp [opX, h]

@[simp] theorem opY_encodeXYN (x y : Reg) (n : Nibble) : opY (encodeXYN f x y n) = y := by
  have h : (encodeXYN f x y n).extractLsb' 4 4 = BitVec.ofFin (w := 4) y := by
    apply BitVec.eq_of_getLsbD_eq; intro k hk
    simp [bit_encodeXYN, hk]
  simp [opY, h]

@[simp] theorem opN_encodeXYN (x y : Reg) (n : Nibble) : opN (encodeXYN f x y n) = n := by
  apply BitVec.eq_of_getLsbD_eq; intro k hk
  simp [opN, bit_encodeXYN, hk]

/-- Format `X` is format `XKK` with the sub-opcode in place of `kk`. -/
theorem encodeX_eq (x : Reg) (low : Byte) : encodeX f x low = encodeXKK f x low := rfl

end

/-! ## A word from its fields -/

/-- A word is format `XYN` of its own fields. -/
theorem encodeXYN_fields (op : Word) : encodeXYN (opFamily op) (opX op) (opY op) (opN op) = op := by
  apply BitVec.eq_of_getLsbD_eq; intro k hk
  rw [bit_encodeXYN]
  simp only [opFamily, opX, opY, opN, BitVec.ofFin_toFin, BitVec.getLsbD_extractLsb']
  have e1 : ¬ k < 4 → 4 + (k - 4) = k := by omega
  have e2 : ¬ k < 4 → ¬ k - 4 < 4 → 8 + (k - 4 - 4) = k := by omega
  have e3 : ¬ k < 4 → ¬ k - 4 < 4 → ¬ k - 4 - 4 < 4 → 12 + (k - 4 - 4 - 4) = k := by omega
  have e4 : k - 4 - 4 - 4 < 4 := by omega
  split <;> [skip; split <;> [skip; split]] <;> simp_all

/-- A word is format `XKK` of its own fields. -/
theorem encodeXKK_fields (op : Word) : encodeXKK (opFamily op) (opX op) (opKK op) = op := by
  apply BitVec.eq_of_getLsbD_eq; intro k hk
  rw [bit_encodeXKK]
  simp only [opFamily, opX, opKK, BitVec.ofFin_toFin, BitVec.getLsbD_extractLsb']
  have e1 : ¬ k < 8 → 8 + (k - 8) = k := by omega
  have e2 : ¬ k < 8 → ¬ k - 8 < 4 → 12 + (k - 8 - 4) = k := by omega
  have e4 : k - 8 - 4 < 4 := by omega
  split <;> [skip; split] <;> simp_all

/-- A word is format `NNN` of its own fields. -/
theorem encodeNNN_fields (op : Word) : encodeNNN (opFamily op) (opNNN op) = op := by
  apply BitVec.eq_of_getLsbD_eq; intro k hk
  rw [bit_encodeNNN]
  simp only [opFamily, opNNN, BitVec.getLsbD_extractLsb']
  have e1 : ¬ k < 12 → 12 + (k - 12) = k := by omega
  have e4 : k - 12 < 4 := by omega
  split <;> simp_all

/-! ## The bytes of a word -/

/-- An opcode put together from its two bytes is itself. -/
@[simp] theorem opOfBytes_high_low (op : Word) : opOfBytes (opHigh op) (opLow op) = op := by
  apply BitVec.eq_of_getLsbD_eq; intro k hk
  simp only [bit_opOfBytes, opHigh, opLow, BitVec.getLsbD_extractLsb']
  by_cases h : k < 8
  · simp [h]
  · simp [h, show k - 8 < 8 by omega, show 8 + (k - 8) = k by omega]

@[simp] theorem opHigh_opOfBytes (hi lo : Byte) : opHigh (opOfBytes hi lo) = hi := by
  apply BitVec.eq_of_getLsbD_eq; intro k hk
  simp [opHigh, bit_opOfBytes, hk]

@[simp] theorem opLow_opOfBytes (hi lo : Byte) : opLow (opOfBytes hi lo) = lo := by
  apply BitVec.eq_of_getLsbD_eq; intro k hk
  simp [opLow, bit_opOfBytes, hk]

/-- The decoder reads a word's bytes as that word, and leaves the bytes after it. -/
theorem decodeBytes_of_word (op : Word) (rest : List Byte) :
    decodeBytes (opHigh op :: opLow op :: rest) = (decodeWord op).map (fun i => (i, rest)) := by
  simp only [decodeBytes, opOfBytes_high_low]
  cases decodeWord op <;> rfl

/-- What the decoder answers, from what the word selects. -/
theorem decodeWord_eq_ok (op : Word) (i : Instr) : decodeWord op = .ok i ↔ selectInstr op = some i := by
  unfold decodeWord; cases selectInstr op <;> simp

theorem decodeWord_eq_error (op : Word) (e : DecodeError) :
    decodeWord op = .error e ↔ selectInstr op = none ∧ e = .unknownOpcode op := by
  unfold decodeWord; cases selectInstr op <;> simp [eq_comm]

end Sys2Proof
end

