-- ==== Sys2Proof/Laws/State.lean ====
section
/-! SUPPORT. What each update of the state does to each field: one lemma per field per update, so that no later proof
unfolds an update. -/

namespace Sys2Proof.Machine

variable (s : State)

@[simp] theorem State.setV_v (x : Reg) (b : Byte) : (s.setV x b).v = s.v.set x.val b := rfl
@[simp] theorem State.setV_i (x : Reg) (b : Byte) : (s.setV x b).i = s.i := rfl
@[simp] theorem State.setV_pc (x : Reg) (b : Byte) : (s.setV x b).pc = s.pc := rfl
@[simp] theorem State.setV_sp (x : Reg) (b : Byte) : (s.setV x b).sp = s.sp := rfl
@[simp] theorem State.setV_stack (x : Reg) (b : Byte) : (s.setV x b).stack = s.stack := rfl
@[simp] theorem State.setV_dt (x : Reg) (b : Byte) : (s.setV x b).dt = s.dt := rfl
@[simp] theorem State.setV_st (x : Reg) (b : Byte) : (s.setV x b).st = s.st := rfl
@[simp] theorem State.setV_keys (x : Reg) (b : Byte) : (s.setV x b).keys = s.keys := rfl
@[simp] theorem State.setV_display (x : Reg) (b : Byte) : (s.setV x b).display = s.display := rfl
@[simp] theorem State.setV_mem (x : Reg) (b : Byte) : (s.setV x b).mem = s.mem := rfl
@[simp] theorem State.setV_loadStoreQuirk (x : Reg) (b : Byte) : (s.setV x b).loadStoreQuirk = s.loadStoreQuirk := rfl
@[simp] theorem State.setV_shiftQuirk (x : Reg) (b : Byte) : (s.setV x b).shiftQuirk = s.shiftQuirk := rfl
@[simp] theorem State.setV_wrapping (x : Reg) (b : Byte) : (s.setV x b).wrapping = s.wrapping := rfl
@[simp] theorem State.setV_period (x : Reg) (b : Byte) : (s.setV x b).period = s.period := rfl
@[simp] theorem State.setV_cycleCredit (x : Reg) (b : Byte) : (s.setV x b).cycleCredit = s.cycleCredit := rfl
@[simp] theorem State.setV_timerCredit (x : Reg) (b : Byte) : (s.setV x b).timerCredit = s.timerCredit := rfl
@[simp] theorem State.setV_fault (x : Reg) (b : Byte) : (s.setV x b).fault = s.fault := rfl
@[simp] theorem State.setV_session (x : Reg) (b : Byte) : (s.setV x b).session = s.session := rfl
@[simp] theorem State.setV_draws (x : Reg) (b : Byte) : (s.setV x b).draws = s.draws := rfl

@[simp] theorem State.setAllV_v (w : Vector Byte 16) : (s.setAllV w).v = w := rfl
@[simp] theorem State.setAllV_i (w : Vector Byte 16) : (s.setAllV w).i = s.i := rfl
@[simp] theorem State.setAllV_pc (w : Vector Byte 16) : (s.setAllV w).pc = s.pc := rfl
@[simp] theorem State.setAllV_sp (w : Vector Byte 16) : (s.setAllV w).sp = s.sp := rfl
@[simp] theorem State.setAllV_stack (w : Vector Byte 16) : (s.setAllV w).stack = s.stack := rfl
@[simp] theorem State.setAllV_dt (w : Vector Byte 16) : (s.setAllV w).dt = s.dt := rfl
@[simp] theorem State.setAllV_st (w : Vector Byte 16) : (s.setAllV w).st = s.st := rfl
@[simp] theorem State.setAllV_keys (w : Vector Byte 16) : (s.setAllV w).keys = s.keys := rfl
@[simp] theorem State.setAllV_display (w : Vector Byte 16) : (s.setAllV w).display = s.display := rfl
@[simp] theorem State.setAllV_mem (w : Vector Byte 16) : (s.setAllV w).mem = s.mem := rfl
@[simp] theorem State.setAllV_loadStoreQuirk (w : Vector Byte 16) : (s.setAllV w).loadStoreQuirk = s.loadStoreQuirk := rfl
@[simp] theorem State.setAllV_shiftQuirk (w : Vector Byte 16) : (s.setAllV w).shiftQuirk = s.shiftQuirk := rfl
@[simp] theorem State.setAllV_wrapping (w : Vector Byte 16) : (s.setAllV w).wrapping = s.wrapping := rfl
@[simp] theorem State.setAllV_period (w : Vector Byte 16) : (s.setAllV w).period = s.period := rfl
@[simp] theorem State.setAllV_cycleCredit (w : Vector Byte 16) : (s.setAllV w).cycleCredit = s.cycleCredit := rfl
@[simp] theorem State.setAllV_timerCredit (w : Vector Byte 16) : (s.setAllV w).timerCredit = s.timerCredit := rfl
@[simp] theorem State.setAllV_fault (w : Vector Byte 16) : (s.setAllV w).fault = s.fault := rfl
@[simp] theorem State.setAllV_session (w : Vector Byte 16) : (s.setAllV w).session = s.session := rfl
@[simp] theorem State.setAllV_draws (w : Vector Byte 16) : (s.setAllV w).draws = s.draws := rfl

@[simp] theorem State.setI_v (w : Word) : (s.setI w).v = s.v := rfl
@[simp] theorem State.setI_i (w : Word) : (s.setI w).i = w := rfl
@[simp] theorem State.setI_pc (w : Word) : (s.setI w).pc = s.pc := rfl
@[simp] theorem State.setI_sp (w : Word) : (s.setI w).sp = s.sp := rfl
@[simp] theorem State.setI_stack (w : Word) : (s.setI w).stack = s.stack := rfl
@[simp] theorem State.setI_dt (w : Word) : (s.setI w).dt = s.dt := rfl
@[simp] theorem State.setI_st (w : Word) : (s.setI w).st = s.st := rfl
@[simp] theorem State.setI_keys (w : Word) : (s.setI w).keys = s.keys := rfl
@[simp] theorem State.setI_display (w : Word) : (s.setI w).display = s.display := rfl
@[simp] theorem State.setI_mem (w : Word) : (s.setI w).mem = s.mem := rfl
@[simp] theorem State.setI_loadStoreQuirk (w : Word) : (s.setI w).loadStoreQuirk = s.loadStoreQuirk := rfl
@[simp] theorem State.setI_shiftQuirk (w : Word) : (s.setI w).shiftQuirk = s.shiftQuirk := rfl
@[simp] theorem State.setI_wrapping (w : Word) : (s.setI w).wrapping = s.wrapping := rfl
@[simp] theorem State.setI_period (w : Word) : (s.setI w).period = s.period := rfl
@[simp] theorem State.setI_cycleCredit (w : Word) : (s.setI w).cycleCredit = s.cycleCredit := rfl
@[simp] theorem State.setI_timerCredit (w : Word) : (s.setI w).timerCredit = s.timerCredit := rfl
@[simp] theorem State.setI_fault (w : Word) : (s.setI w).fault = s.fault := rfl
@[simp] theorem State.setI_session (w : Word) : (s.setI w).session = s.session := rfl
@[simp] theorem State.setI_draws (w : Word) : (s.setI w).draws = s.draws := rfl

@[simp] theorem State.setPc_v (w : Word) : (s.setPc w).v = s.v := rfl
@[simp] theorem State.setPc_i (w : Word) : (s.setPc w).i = s.i := rfl
@[simp] theorem State.setPc_pc (w : Word) : (s.setPc w).pc = w := rfl
@[simp] theorem State.setPc_sp (w : Word) : (s.setPc w).sp = s.sp := rfl
@[simp] theorem State.setPc_stack (w : Word) : (s.setPc w).stack = s.stack := rfl
@[simp] theorem State.setPc_dt (w : Word) : (s.setPc w).dt = s.dt := rfl
@[simp] theorem State.setPc_st (w : Word) : (s.setPc w).st = s.st := rfl
@[simp] theorem State.setPc_keys (w : Word) : (s.setPc w).keys = s.keys := rfl
@[simp] theorem State.setPc_display (w : Word) : (s.setPc w).display = s.display := rfl
@[simp] theorem State.setPc_mem (w : Word) : (s.setPc w).mem = s.mem := rfl
@[simp] theorem State.setPc_loadStoreQuirk (w : Word) : (s.setPc w).loadStoreQuirk = s.loadStoreQuirk := rfl
@[simp] theorem State.setPc_shiftQuirk (w : Word) : (s.setPc w).shiftQuirk = s.shiftQuirk := rfl
@[simp] theorem State.setPc_wrapping (w : Word) : (s.setPc w).wrapping = s.wrapping := rfl
@[simp] theorem State.setPc_period (w : Word) : (s.setPc w).period = s.period := rfl
@[simp] theorem State.setPc_cycleCredit (w : Word) : (s.setPc w).cycleCredit = s.cycleCredit := rfl
@[simp] theorem State.setPc_timerCredit (w : Word) : (s.setPc w).timerCredit = s.timerCredit := rfl
@[simp] theorem State.setPc_fault (w : Word) : (s.setPc w).fault = s.fault := rfl
@[simp] theorem State.setPc_session (w : Word) : (s.setPc w).session = s.session := rfl
@[simp] theorem State.setPc_draws (w : Word) : (s.setPc w).draws = s.draws := rfl

@[simp] theorem State.setSp_v (b : Byte) : (s.setSp b).v = s.v := rfl
@[simp] theorem State.setSp_i (b : Byte) : (s.setSp b).i = s.i := rfl
@[simp] theorem State.setSp_pc (b : Byte) : (s.setSp b).pc = s.pc := rfl
@[simp] theorem State.setSp_sp (b : Byte) : (s.setSp b).sp = b := rfl
@[simp] theorem State.setSp_stack (b : Byte) : (s.setSp b).stack = s.stack := rfl
@[simp] theorem State.setSp_dt (b : Byte) : (s.setSp b).dt = s.dt := rfl
@[simp] theorem State.setSp_st (b : Byte) : (s.setSp b).st = s.st := rfl
@[simp] theorem State.setSp_keys (b : Byte) : (s.setSp b).keys = s.keys := rfl
@[simp] theorem State.setSp_display (b : Byte) : (s.setSp b).display = s.display := rfl
@[simp] theorem State.setSp_mem (b : Byte) : (s.setSp b).mem = s.mem := rfl
@[simp] theorem State.setSp_loadStoreQuirk (b : Byte) : (s.setSp b).loadStoreQuirk = s.loadStoreQuirk := rfl
@[simp] theorem State.setSp_shiftQuirk (b : Byte) : (s.setSp b).shiftQuirk = s.shiftQuirk := rfl
@[simp] theorem State.setSp_wrapping (b : Byte) : (s.setSp b).wrapping = s.wrapping := rfl
@[simp] theorem State.setSp_period (b : Byte) : (s.setSp b).period = s.period := rfl
@[simp] theorem State.setSp_cycleCredit (b : Byte) : (s.setSp b).cycleCredit = s.cycleCredit := rfl
@[simp] theorem State.setSp_timerCredit (b : Byte) : (s.setSp b).timerCredit = s.timerCredit := rfl
@[simp] theorem State.setSp_fault (b : Byte) : (s.setSp b).fault = s.fault := rfl
@[simp] theorem State.setSp_session (b : Byte) : (s.setSp b).session = s.session := rfl
@[simp] theorem State.setSp_draws (b : Byte) : (s.setSp b).draws = s.draws := rfl

@[simp] theorem State.setStackEntry_v (k : Nat) (w : Word) : (s.setStackEntry k w).v = s.v := rfl
@[simp] theorem State.setStackEntry_i (k : Nat) (w : Word) : (s.setStackEntry k w).i = s.i := rfl
@[simp] theorem State.setStackEntry_pc (k : Nat) (w : Word) : (s.setStackEntry k w).pc = s.pc := rfl
@[simp] theorem State.setStackEntry_sp (k : Nat) (w : Word) : (s.setStackEntry k w).sp = s.sp := rfl
@[simp] theorem State.setStackEntry_stack (k : Nat) (w : Word) : (s.setStackEntry k w).stack = s.stack.setIfInBounds k w := rfl
@[simp] theorem State.setStackEntry_dt (k : Nat) (w : Word) : (s.setStackEntry k w).dt = s.dt := rfl
@[simp] theorem State.setStackEntry_st (k : Nat) (w : Word) : (s.setStackEntry k w).st = s.st := rfl
@[simp] theorem State.setStackEntry_keys (k : Nat) (w : Word) : (s.setStackEntry k w).keys = s.keys := rfl
@[simp] theorem State.setStackEntry_display (k : Nat) (w : Word) : (s.setStackEntry k w).display = s.display := rfl
@[simp] theorem State.setStackEntry_mem (k : Nat) (w : Word) : (s.setStackEntry k w).mem = s.mem := rfl
@[simp] theorem State.setStackEntry_loadStoreQuirk (k : Nat) (w : Word) : (s.setStackEntry k w).loadStoreQuirk = s.loadStoreQuirk := rfl
@[simp] theorem State.setStackEntry_shiftQuirk (k : Nat) (w : Word) : (s.setStackEntry k w).shiftQuirk = s.shiftQuirk := rfl
@[simp] theorem State.setStackEntry_wrapping (k : Nat) (w : Word) : (s.setStackEntry k w).wrapping = s.wrapping := rfl
@[simp] theorem State.setStackEntry_period (k : Nat) (w : Word) : (s.setStackEntry k w).period = s.period := rfl
@[simp] theorem State.setStackEntry_cycleCredit (k : Nat) (w : Word) : (s.setStackEntry k w).cycleCredit = s.cycleCredit := rfl
@[simp] theorem State.setStackEntry_timerCredit (k : Nat) (w : Word) : (s.setStackEntry k w).timerCredit = s.timerCredit := rfl
@[simp] theorem State.setStackEntry_fault (k : Nat) (w : Word) : (s.setStackEntry k w).fault = s.fault := rfl
@[simp] theorem State.setStackEntry_session (k : Nat) (w : Word) : (s.setStackEntry k w).session = s.session := rfl
@[simp] theorem State.setStackEntry_draws (k : Nat) (w : Word) : (s.setStackEntry k w).draws = s.draws := rfl

@[simp] theorem State.setDt_v (b : Byte) : (s.setDt b).v = s.v := rfl
@[simp] theorem State.setDt_i (b : Byte) : (s.setDt b).i = s.i := rfl
@[simp] theorem State.setDt_pc (b : Byte) : (s.setDt b).pc = s.pc := rfl
@[simp] theorem State.setDt_sp (b : Byte) : (s.setDt b).sp = s.sp := rfl
@[simp] theorem State.setDt_stack (b : Byte) : (s.setDt b).stack = s.stack := rfl
@[simp] theorem State.setDt_dt (b : Byte) : (s.setDt b).dt = b := rfl
@[simp] theorem State.setDt_st (b : Byte) : (s.setDt b).st = s.st := rfl
@[simp] theorem State.setDt_keys (b : Byte) : (s.setDt b).keys = s.keys := rfl
@[simp] theorem State.setDt_display (b : Byte) : (s.setDt b).display = s.display := rfl
@[simp] theorem State.setDt_mem (b : Byte) : (s.setDt b).mem = s.mem := rfl
@[simp] theorem State.setDt_loadStoreQuirk (b : Byte) : (s.setDt b).loadStoreQuirk = s.loadStoreQuirk := rfl
@[simp] theorem State.setDt_shiftQuirk (b : Byte) : (s.setDt b).shiftQuirk = s.shiftQuirk := rfl
@[simp] theorem State.setDt_wrapping (b : Byte) : (s.setDt b).wrapping = s.wrapping := rfl
@[simp] theorem State.setDt_period (b : Byte) : (s.setDt b).period = s.period := rfl
@[simp] theorem State.setDt_cycleCredit (b : Byte) : (s.setDt b).cycleCredit = s.cycleCredit := rfl
@[simp] theorem State.setDt_timerCredit (b : Byte) : (s.setDt b).timerCredit = s.timerCredit := rfl
@[simp] theorem State.setDt_fault (b : Byte) : (s.setDt b).fault = s.fault := rfl
@[simp] theorem State.setDt_session (b : Byte) : (s.setDt b).session = s.session := rfl
@[simp] theorem State.setDt_draws (b : Byte) : (s.setDt b).draws = s.draws := rfl

@[simp] theorem State.setSt_v (b : Byte) : (s.setSt b).v = s.v := rfl
@[simp] theorem State.setSt_i (b : Byte) : (s.setSt b).i = s.i := rfl
@[simp] theorem State.setSt_pc (b : Byte) : (s.setSt b).pc = s.pc := rfl
@[simp] theorem State.setSt_sp (b : Byte) : (s.setSt b).sp = s.sp := rfl
@[simp] theorem State.setSt_stack (b : Byte) : (s.setSt b).stack = s.stack := rfl
@[simp] theorem State.setSt_dt (b : Byte) : (s.setSt b).dt = s.dt := rfl
@[simp] theorem State.setSt_st (b : Byte) : (s.setSt b).st = b := rfl
@[simp] theorem State.setSt_keys (b : Byte) : (s.setSt b).keys = s.keys := rfl
@[simp] theorem State.setSt_display (b : Byte) : (s.setSt b).display = s.display := rfl
@[simp] theorem State.setSt_mem (b : Byte) : (s.setSt b).mem = s.mem := rfl
@[simp] theorem State.setSt_loadStoreQuirk (b : Byte) : (s.setSt b).loadStoreQuirk = s.loadStoreQuirk := rfl
@[simp] theorem State.setSt_shiftQuirk (b : Byte) : (s.setSt b).shiftQuirk = s.shiftQuirk := rfl
@[simp] theorem State.setSt_wrapping (b : Byte) : (s.setSt b).wrapping = s.wrapping := rfl
@[simp] theorem State.setSt_period (b : Byte) : (s.setSt b).period = s.period := rfl
@[simp] theorem State.setSt_cycleCredit (b : Byte) : (s.setSt b).cycleCredit = s.cycleCredit := rfl
@[simp] theorem State.setSt_timerCredit (b : Byte) : (s.setSt b).timerCredit = s.timerCredit := rfl
@[simp] theorem State.setSt_fault (b : Byte) : (s.setSt b).fault = s.fault := rfl
@[simp] theorem State.setSt_session (b : Byte) : (s.setSt b).session = s.session := rfl
@[simp] theorem State.setSt_draws (b : Byte) : (s.setSt b).draws = s.draws := rfl

@[simp] theorem State.setKeyLevel_v (k : Reg) (d : Bool) : (s.setKeyLevel k d).v = s.v := rfl
@[simp] theorem State.setKeyLevel_i (k : Reg) (d : Bool) : (s.setKeyLevel k d).i = s.i := rfl
@[simp] theorem State.setKeyLevel_pc (k : Reg) (d : Bool) : (s.setKeyLevel k d).pc = s.pc := rfl
@[simp] theorem State.setKeyLevel_sp (k : Reg) (d : Bool) : (s.setKeyLevel k d).sp = s.sp := rfl
@[simp] theorem State.setKeyLevel_stack (k : Reg) (d : Bool) : (s.setKeyLevel k d).stack = s.stack := rfl
@[simp] theorem State.setKeyLevel_dt (k : Reg) (d : Bool) : (s.setKeyLevel k d).dt = s.dt := rfl
@[simp] theorem State.setKeyLevel_st (k : Reg) (d : Bool) : (s.setKeyLevel k d).st = s.st := rfl
@[simp] theorem State.setKeyLevel_keys (k : Reg) (d : Bool) : (s.setKeyLevel k d).keys = s.keys.set k.val d := rfl
@[simp] theorem State.setKeyLevel_display (k : Reg) (d : Bool) : (s.setKeyLevel k d).display = s.display := rfl
@[simp] theorem State.setKeyLevel_mem (k : Reg) (d : Bool) : (s.setKeyLevel k d).mem = s.mem := rfl
@[simp] theorem State.setKeyLevel_loadStoreQuirk (k : Reg) (d : Bool) : (s.setKeyLevel k d).loadStoreQuirk = s.loadStoreQuirk := rfl
@[simp] theorem State.setKeyLevel_shiftQuirk (k : Reg) (d : Bool) : (s.setKeyLevel k d).shiftQuirk = s.shiftQuirk := rfl
@[simp] theorem State.setKeyLevel_wrapping (k : Reg) (d : Bool) : (s.setKeyLevel k d).wrapping = s.wrapping := rfl
@[simp] theorem State.setKeyLevel_period (k : Reg) (d : Bool) : (s.setKeyLevel k d).period = s.period := rfl
@[simp] theorem State.setKeyLevel_cycleCredit (k : Reg) (d : Bool) : (s.setKeyLevel k d).cycleCredit = s.cycleCredit := rfl
@[simp] theorem State.setKeyLevel_timerCredit (k : Reg) (d : Bool) : (s.setKeyLevel k d).timerCredit = s.timerCredit := rfl
@[simp] theorem State.setKeyLevel_fault (k : Reg) (d : Bool) : (s.setKeyLevel k d).fault = s.fault := rfl
@[simp] theorem State.setKeyLevel_session (k : Reg) (d : Bool) : (s.setKeyLevel k d).session = s.session := rfl
@[simp] theorem State.setKeyLevel_draws (k : Reg) (d : Bool) : (s.setKeyLevel k d).draws = s.draws := rfl

@[simp] theorem State.setMem_v (m : Memory) : (s.setMem m).v = s.v := rfl
@[simp] theorem State.setMem_i (m : Memory) : (s.setMem m).i = s.i := rfl
@[simp] theorem State.setMem_pc (m : Memory) : (s.setMem m).pc = s.pc := rfl
@[simp] theorem State.setMem_sp (m : Memory) : (s.setMem m).sp = s.sp := rfl
@[simp] theorem State.setMem_stack (m : Memory) : (s.setMem m).stack = s.stack := rfl
@[simp] theorem State.setMem_dt (m : Memory) : (s.setMem m).dt = s.dt := rfl
@[simp] theorem State.setMem_st (m : Memory) : (s.setMem m).st = s.st := rfl
@[simp] theorem State.setMem_keys (m : Memory) : (s.setMem m).keys = s.keys := rfl
@[simp] theorem State.setMem_display (m : Memory) : (s.setMem m).display = s.display := rfl
@[simp] theorem State.setMem_mem (m : Memory) : (s.setMem m).mem = m := rfl
@[simp] theorem State.setMem_loadStoreQuirk (m : Memory) : (s.setMem m).loadStoreQuirk = s.loadStoreQuirk := rfl
@[simp] theorem State.setMem_shiftQuirk (m : Memory) : (s.setMem m).shiftQuirk = s.shiftQuirk := rfl
@[simp] theorem State.setMem_wrapping (m : Memory) : (s.setMem m).wrapping = s.wrapping := rfl
@[simp] theorem State.setMem_period (m : Memory) : (s.setMem m).period = s.period := rfl
@[simp] theorem State.setMem_cycleCredit (m : Memory) : (s.setMem m).cycleCredit = s.cycleCredit := rfl
@[simp] theorem State.setMem_timerCredit (m : Memory) : (s.setMem m).timerCredit = s.timerCredit := rfl
@[simp] theorem State.setMem_fault (m : Memory) : (s.setMem m).fault = s.fault := rfl
@[simp] theorem State.setMem_session (m : Memory) : (s.setMem m).session = s.session := rfl
@[simp] theorem State.setMem_draws (m : Memory) : (s.setMem m).draws = s.draws := rfl

@[simp] theorem State.setDisplay_v (d : Display) : (s.setDisplay d).v = s.v := rfl
@[simp] theorem State.setDisplay_i (d : Display) : (s.setDisplay d).i = s.i := rfl
@[simp] theorem State.setDisplay_pc (d : Display) : (s.setDisplay d).pc = s.pc := rfl
@[simp] theorem State.setDisplay_sp (d : Display) : (s.setDisplay d).sp = s.sp := rfl
@[simp] theorem State.setDisplay_stack (d : Display) : (s.setDisplay d).stack = s.stack := rfl
@[simp] theorem State.setDisplay_dt (d : Display) : (s.setDisplay d).dt = s.dt := rfl
@[simp] theorem State.setDisplay_st (d : Display) : (s.setDisplay d).st = s.st := rfl
@[simp] theorem State.setDisplay_keys (d : Display) : (s.setDisplay d).keys = s.keys := rfl
@[simp] theorem State.setDisplay_display (d : Display) : (s.setDisplay d).display = d := rfl
@[simp] theorem State.setDisplay_mem (d : Display) : (s.setDisplay d).mem = s.mem := rfl
@[simp] theorem State.setDisplay_loadStoreQuirk (d : Display) : (s.setDisplay d).loadStoreQuirk = s.loadStoreQuirk := rfl
@[simp] theorem State.setDisplay_shiftQuirk (d : Display) : (s.setDisplay d).shiftQuirk = s.shiftQuirk := rfl
@[simp] theorem State.setDisplay_wrapping (d : Display) : (s.setDisplay d).wrapping = s.wrapping := rfl
@[simp] theorem State.setDisplay_period (d : Display) : (s.setDisplay d).period = s.period := rfl
@[simp] theorem State.setDisplay_cycleCredit (d : Display) : (s.setDisplay d).cycleCredit = s.cycleCredit := rfl
@[simp] theorem State.setDisplay_timerCredit (d : Display) : (s.setDisplay d).timerCredit = s.timerCredit := rfl
@[simp] theorem State.setDisplay_fault (d : Display) : (s.setDisplay d).fault = s.fault := rfl
@[simp] theorem State.setDisplay_session (d : Display) : (s.setDisplay d).session = s.session := rfl
@[simp] theorem State.setDisplay_draws (d : Display) : (s.setDisplay d).draws = s.draws := rfl

@[simp] theorem State.setFault_v (f : Option FaultRecord) : (s.setFault f).v = s.v := rfl
@[simp] theorem State.setFault_i (f : Option FaultRecord) : (s.setFault f).i = s.i := rfl
@[simp] theorem State.setFault_pc (f : Option FaultRecord) : (s.setFault f).pc = s.pc := rfl
@[simp] theorem State.setFault_sp (f : Option FaultRecord) : (s.setFault f).sp = s.sp := rfl
@[simp] theorem State.setFault_stack (f : Option FaultRecord) : (s.setFault f).stack = s.stack := rfl
@[simp] theorem State.setFault_dt (f : Option FaultRecord) : (s.setFault f).dt = s.dt := rfl
@[simp] theorem State.setFault_st (f : Option FaultRecord) : (s.setFault f).st = s.st := rfl
@[simp] theorem State.setFault_keys (f : Option FaultRecord) : (s.setFault f).keys = s.keys := rfl
@[simp] theorem State.setFault_display (f : Option FaultRecord) : (s.setFault f).display = s.display := rfl
@[simp] theorem State.setFault_mem (f : Option FaultRecord) : (s.setFault f).mem = s.mem := rfl
@[simp] theorem State.setFault_loadStoreQuirk (f : Option FaultRecord) : (s.setFault f).loadStoreQuirk = s.loadStoreQuirk := rfl
@[simp] theorem State.setFault_shiftQuirk (f : Option FaultRecord) : (s.setFault f).shiftQuirk = s.shiftQuirk := rfl
@[simp] theorem State.setFault_wrapping (f : Option FaultRecord) : (s.setFault f).wrapping = s.wrapping := rfl
@[simp] theorem State.setFault_period (f : Option FaultRecord) : (s.setFault f).period = s.period := rfl
@[simp] theorem State.setFault_cycleCredit (f : Option FaultRecord) : (s.setFault f).cycleCredit = s.cycleCredit := rfl
@[simp] theorem State.setFault_timerCredit (f : Option FaultRecord) : (s.setFault f).timerCredit = s.timerCredit := rfl
@[simp] theorem State.setFault_fault (f : Option FaultRecord) : (s.setFault f).fault = f := rfl
@[simp] theorem State.setFault_session (f : Option FaultRecord) : (s.setFault f).session = s.session := rfl
@[simp] theorem State.setFault_draws (f : Option FaultRecord) : (s.setFault f).draws = s.draws := rfl

@[simp] theorem State.setCredits_v (c t : Rat) : (s.setCredits c t).v = s.v := rfl
@[simp] theorem State.setCredits_i (c t : Rat) : (s.setCredits c t).i = s.i := rfl
@[simp] theorem State.setCredits_pc (c t : Rat) : (s.setCredits c t).pc = s.pc := rfl
@[simp] theorem State.setCredits_sp (c t : Rat) : (s.setCredits c t).sp = s.sp := rfl
@[simp] theorem State.setCredits_stack (c t : Rat) : (s.setCredits c t).stack = s.stack := rfl
@[simp] theorem State.setCredits_dt (c t : Rat) : (s.setCredits c t).dt = s.dt := rfl
@[simp] theorem State.setCredits_st (c t : Rat) : (s.setCredits c t).st = s.st := rfl
@[simp] theorem State.setCredits_keys (c t : Rat) : (s.setCredits c t).keys = s.keys := rfl
@[simp] theorem State.setCredits_display (c t : Rat) : (s.setCredits c t).display = s.display := rfl
@[simp] theorem State.setCredits_mem (c t : Rat) : (s.setCredits c t).mem = s.mem := rfl
@[simp] theorem State.setCredits_loadStoreQuirk (c t : Rat) : (s.setCredits c t).loadStoreQuirk = s.loadStoreQuirk := rfl
@[simp] theorem State.setCredits_shiftQuirk (c t : Rat) : (s.setCredits c t).shiftQuirk = s.shiftQuirk := rfl
@[simp] theorem State.setCredits_wrapping (c t : Rat) : (s.setCredits c t).wrapping = s.wrapping := rfl
@[simp] theorem State.setCredits_period (c t : Rat) : (s.setCredits c t).period = s.period := rfl
@[simp] theorem State.setCredits_cycleCredit (c t : Rat) : (s.setCredits c t).cycleCredit = c := rfl
@[simp] theorem State.setCredits_timerCredit (c t : Rat) : (s.setCredits c t).timerCredit = t := rfl
@[simp] theorem State.setCredits_fault (c t : Rat) : (s.setCredits c t).fault = s.fault := rfl
@[simp] theorem State.setCredits_session (c t : Rat) : (s.setCredits c t).session = s.session := rfl
@[simp] theorem State.setCredits_draws (c t : Rat) : (s.setCredits c t).draws = s.draws := rfl

@[simp] theorem State.setSession_v (p : Session) : (s.setSession p).v = s.v := rfl
@[simp] theorem State.setSession_i (p : Session) : (s.setSession p).i = s.i := rfl
@[simp] theorem State.setSession_pc (p : Session) : (s.setSession p).pc = s.pc := rfl
@[simp] theorem State.setSession_sp (p : Session) : (s.setSession p).sp = s.sp := rfl
@[simp] theorem State.setSession_stack (p : Session) : (s.setSession p).stack = s.stack := rfl
@[simp] theorem State.setSession_dt (p : Session) : (s.setSession p).dt = s.dt := rfl
@[simp] theorem State.setSession_st (p : Session) : (s.setSession p).st = s.st := rfl
@[simp] theorem State.setSession_keys (p : Session) : (s.setSession p).keys = s.keys := rfl
@[simp] theorem State.setSession_display (p : Session) : (s.setSession p).display = s.display := rfl
@[simp] theorem State.setSession_mem (p : Session) : (s.setSession p).mem = s.mem := rfl
@[simp] theorem State.setSession_loadStoreQuirk (p : Session) : (s.setSession p).loadStoreQuirk = s.loadStoreQuirk := rfl
@[simp] theorem State.setSession_shiftQuirk (p : Session) : (s.setSession p).shiftQuirk = s.shiftQuirk := rfl
@[simp] theorem State.setSession_wrapping (p : Session) : (s.setSession p).wrapping = s.wrapping := rfl
@[simp] theorem State.setSession_period (p : Session) : (s.setSession p).period = s.period := rfl
@[simp] theorem State.setSession_cycleCredit (p : Session) : (s.setSession p).cycleCredit = s.cycleCredit := rfl
@[simp] theorem State.setSession_timerCredit (p : Session) : (s.setSession p).timerCredit = s.timerCredit := rfl
@[simp] theorem State.setSession_fault (p : Session) : (s.setSession p).fault = s.fault := rfl
@[simp] theorem State.setSession_session (p : Session) : (s.setSession p).session = p := rfl
@[simp] theorem State.setSession_draws (p : Session) : (s.setSession p).draws = s.draws := rfl

@[simp] theorem State.setDraws_v (k : Nat) : (s.setDraws k).v = s.v := rfl
@[simp] theorem State.setDraws_i (k : Nat) : (s.setDraws k).i = s.i := rfl
@[simp] theorem State.setDraws_pc (k : Nat) : (s.setDraws k).pc = s.pc := rfl
@[simp] theorem State.setDraws_sp (k : Nat) : (s.setDraws k).sp = s.sp := rfl
@[simp] theorem State.setDraws_stack (k : Nat) : (s.setDraws k).stack = s.stack := rfl
@[simp] theorem State.setDraws_dt (k : Nat) : (s.setDraws k).dt = s.dt := rfl
@[simp] theorem State.setDraws_st (k : Nat) : (s.setDraws k).st = s.st := rfl
@[simp] theorem State.setDraws_keys (k : Nat) : (s.setDraws k).keys = s.keys := rfl
@[simp] theorem State.setDraws_display (k : Nat) : (s.setDraws k).display = s.display := rfl
@[simp] theorem State.setDraws_mem (k : Nat) : (s.setDraws k).mem = s.mem := rfl
@[simp] theorem State.setDraws_loadStoreQuirk (k : Nat) : (s.setDraws k).loadStoreQuirk = s.loadStoreQuirk := rfl
@[simp] theorem State.setDraws_shiftQuirk (k : Nat) : (s.setDraws k).shiftQuirk = s.shiftQuirk := rfl
@[simp] theorem State.setDraws_wrapping (k : Nat) : (s.setDraws k).wrapping = s.wrapping := rfl
@[simp] theorem State.setDraws_period (k : Nat) : (s.setDraws k).period = s.period := rfl
@[simp] theorem State.setDraws_cycleCredit (k : Nat) : (s.setDraws k).cycleCredit = s.cycleCredit := rfl
@[simp] theorem State.setDraws_timerCredit (k : Nat) : (s.setDraws k).timerCredit = s.timerCredit := rfl
@[simp] theorem State.setDraws_fault (k : Nat) : (s.setDraws k).fault = s.fault := rfl
@[simp] theorem State.setDraws_session (k : Nat) : (s.setDraws k).session = s.session := rfl
@[simp] theorem State.setDraws_draws (k : Nat) : (s.setDraws k).draws = k := rfl

end Sys2Proof.Machine
end

