-- ==== Sys2Proof/Laws/Memory.lean ====
section
/-! SUPPORT. The laws of memory: a write is what a later read of its address sees and no other read sees it, every
operation keeps the canonical form, and an access that passes its check lies inside the memory. -/

namespace Sys2Proof.Machine

/-- The canonical form of a non-empty memory, taken apart. -/
theorem Memory.wf_cons (a : Nat) (w : Byte) (rest : Memory) :
    Memory.wf ((a, w) :: rest) = true ↔
      a ≤ 4095 ∧ w ≠ resetByte a ∧ (∀ c ∈ rest, a < c.1) ∧ Memory.wf rest = true := by
  simp [Memory.wf, and_assoc]

/-- An address below every listed one is unlisted. -/
theorem Memory.read_of_lt (m : Memory) (a : Nat) (h : ∀ c ∈ m, a < c.1) : m.read a = resetByte a := by
  induction m with
  | nil => rfl
  | cons c rest ih =>
    have hc := h c (by simp)
    simp only [Memory.read]
    rw [if_neg (by omega)]
    exact ih fun d hd => h d (by simp [hd])

/-- A written memory lists no address below both the write and the memory. -/
theorem Memory.lt_of_mem_write (m : Memory) (a k : Nat) (w : Byte) (hm : ∀ c ∈ m, k < c.1) (ha : k < a) :
    ∀ c ∈ m.write a w, k < c.1 := by
  induction m with
  | nil =>
    intro c hc
    simp only [Memory.write] at hc
    split at hc <;> simp_all
  | cons d rest ih =>
    have hrest : ∀ c ∈ rest, k < c.1 := fun c hc => hm c (by simp [hc])
    have hd := hm d (by simp)
    intro c hc
    simp only [Memory.write] at hc
    split at hc
    · split at hc
      · exact hm c hc
      · rcases List.mem_cons.mp hc with rfl | hc
        · exact ha
        · exact hm c hc
    · split at hc
      · split at hc
        · exact hrest c hc
        · rcases List.mem_cons.mp hc with rfl | hc
          · exact ha
          · exact hrest c hc
      · rcases List.mem_cons.mp hc with rfl | hc
        · exact hd
        · exact ih hrest c hc

/-- READ AFTER WRITE, for every pair of addresses. -/
theorem Memory.read_write (m : Memory) (a b : Nat) (w : Byte) (h : m.wf = true) :
    (m.write a w).read b = if b = a then w else m.read b := by
  induction m with
  | nil =>
    simp only [Memory.write]
    split
    · by_cases hb : b = a <;> simp_all [Memory.read]
    · by_cases hb : b = a
      · simp [Memory.read, hb]
      · simp [Memory.read, hb, Ne.symm hb]
  | cons d rest ih =>
    obtain ⟨e, u⟩ := d
    obtain ⟨-, -, hlt, hrest⟩ := (Memory.wf_cons e u rest).mp h
    simp only [Memory.write]
    split
    · rename_i hae
      have hunlisted : Memory.read ((e, u) :: rest) a = resetByte a :=
        Memory.read_of_lt _ a fun c hc => by
          rcases List.mem_cons.mp hc with rfl | hc
          · exact hae
          · exact hae.trans (hlt c hc)
      split
      · by_cases hb : b = a
        · subst hb; simp_all
        · simp [hb]
      · by_cases hb : b = a
        · simp [Memory.read, hb]
        · simp [Memory.read, hb, Ne.symm hb]
    · split
      · rename_i hae
        subst hae
        split
        · by_cases hb : b = a
          · subst hb; rw [Memory.read_of_lt rest b hlt]; simp_all
          · simp [Memory.read, hb, Ne.symm hb]
        · by_cases hb : b = a
          · simp [Memory.read, hb]
          · simp [Memory.read, hb, Ne.symm hb]
      · rename_i hne
        simp only [Memory.read, ih hrest]
        by_cases hb : b = a
        · subst hb; simp [Ne.symm hne]
        · simp [hb]

/-- A write inside the 4096 bytes keeps the canonical form. -/
theorem Memory.wf_write (m : Memory) (a : Nat) (w : Byte) (h : m.wf = true) (ha : a ≤ 4095) :
    (m.write a w).wf = true := by
  induction m with
  | nil =>
    simp only [Memory.write]
    split
    · rfl
    · exact (Memory.wf_cons ..).mpr ⟨ha, by assumption, by simp, rfl⟩
  | cons d rest ih =>
    obtain ⟨e, u⟩ := d
    obtain ⟨he, hu, hlt, hrest⟩ := (Memory.wf_cons e u rest).mp h
    simp only [Memory.write]
    split
    · rename_i hae
      split
      · exact h
      · refine (Memory.wf_cons ..).mpr ⟨ha, by assumption, fun c hc => ?_, h⟩
        rcases List.mem_cons.mp hc with rfl | hc
        · exact hae
        · exact hae.trans (hlt c hc)
    · split
      · rename_i hae
        split
        · exact hrest
        · exact (Memory.wf_cons ..).mpr ⟨ha, by assumption, hae ▸ hlt, hrest⟩
      · rename_i hae hne
        exact (Memory.wf_cons ..).mpr ⟨he, hu, Memory.lt_of_mem_write rest a e w hlt (by omega), ih hrest⟩

/-- A write of consecutive bytes inside the 4096 bytes keeps the canonical form. -/
theorem Memory.wf_writeBytes (m : Memory) (a : Nat) (ws : List Byte) (h : m.wf = true) (ha : a + ws.length ≤ 4096) :
    (m.writeBytes a ws).wf = true := by
  induction ws generalizing m a with
  | nil => exact h
  | cons w ws ih =>
    simp only [List.length_cons] at ha
    exact ih _ _ (Memory.wf_write m a w h (by omega)) (by omega)

/-- READ AFTER A WRITE OF CONSECUTIVE BYTES: byte `k` of the list at `a + k`, every other address as before. -/
theorem Memory.read_writeBytes (m : Memory) (a b : Nat) (ws : List Byte) (h : m.wf = true)
    (ha : a + ws.length ≤ 4096) :
    (m.writeBytes a ws).read b = if a ≤ b ∧ b < a + ws.length then ws[b - a]?.getD 0 else m.read b := by
  induction ws generalizing m a with
  | nil => simp [Memory.writeBytes]
  | cons w ws ih =>
    simp only [List.length_cons] at ha
    simp only [Memory.writeBytes, List.length_cons]
    rw [ih _ _ (Memory.wf_write m a w h (by omega)) (by omega), Memory.read_write m a b w h]
    by_cases hb : b = a
    · subst hb; simp
    · by_cases hlt : a ≤ b
      · have hk : b - a = (b - (a + 1)) + 1 := by omega
        simp only [hb, if_false, hk, List.getElem?_cons_succ]
        congr 1
        simp only [eq_iff_iff]; omega
      · rw [if_neg (by omega), if_neg hb, if_neg (by omega)]

/-- `MemRead` answers the byte inside the memory. -/
theorem memRead_of_le (m : Memory) (a : Nat) (h : a ≤ 4095) : memRead m a = .ok (m.read a) := by simp [memRead, h]

/-- `MemRead` raises `OutOfMemoryAccess(addr)` outside it. -/
theorem memRead_of_gt (m : Memory) (a : Nat) (h : 4095 < a) : memRead m a = .error (.outOfMemoryAccess a) := by
  simp [memRead, Nat.not_le.mpr h]

/-- An access that ends inside the memory passes its check. -/
theorem spanFault_of_le (i len : Nat) (h : i + len ≤ 4096) : spanFault i len = none := by
  simp [spanFault, Nat.not_lt.mpr h]

/-- An access that ends above it is refused, with the lowest address out of range. -/
theorem spanFault_of_gt (i len : Nat) (h : 4096 < i + len) :
    spanFault i len = some (.outOfMemoryAccess (max i 4096)) := by simp [spanFault, h]

end Sys2Proof.Machine
end

