-- ==== Sys2Proof/Laws/Registers.lean ====
section
/-! SUPPORT. Reads of registers, keys, stack entries and memory bytes after an update, and what the shared endings of
an instruction do. -/

namespace Sys2Proof.Machine

variable (s : State)

/-! ## General registers -/

/-- A register reads as what was last written to it; the others as before. -/
theorem State.getV_setV (x y : Reg) (b : Byte) : (s.setV x b).getV y = if y = x then b else s.getV y := by
  simp [State.getV, State.setV, Vector.getElem_set, Fin.ext_iff, eq_comm]

@[simp] theorem State.getV_setV_self (x : Reg) (b : Byte) : (s.setV x b).getV x = b := by simp [State.getV_setV]

theorem State.getV_setV_of_ne (x y : Reg) (b : Byte) (h : y ≠ x) : (s.setV x b).getV y = s.getV y := by
  simp [State.getV_setV, h]

@[simp] theorem State.getV_setI (w : Word) (x : Reg) : (s.setI w).getV x = s.getV x := rfl
@[simp] theorem State.getV_setPc (w : Word) (x : Reg) : (s.setPc w).getV x = s.getV x := rfl
@[simp] theorem State.getV_setSp (b : Byte) (x : Reg) : (s.setSp b).getV x = s.getV x := rfl
@[simp] theorem State.getV_setStackEntry (k : Nat) (w : Word) (x : Reg) :
    (s.setStackEntry k w).getV x = s.getV x := rfl
@[simp] theorem State.getV_setDt (b : Byte) (x : Reg) : (s.setDt b).getV x = s.getV x := rfl
@[simp] theorem State.getV_setSt (b : Byte) (x : Reg) : (s.setSt b).getV x = s.getV x := rfl
@[simp] theorem State.getV_setKeyLevel (k : Reg) (d : Bool) (x : Reg) : (s.setKeyLevel k d).getV x = s.getV x := rfl
@[simp] theorem State.getV_setMem (m : Memory) (x : Reg) : (s.setMem m).getV x = s.getV x := rfl
@[simp] theorem State.getV_setDisplay (d : Display) (x : Reg) : (s.setDisplay d).getV x = s.getV x := rfl
@[simp] theorem State.getV_setFault (f : Option FaultRecord) (x : Reg) : (s.setFault f).getV x = s.getV x := rfl
@[simp] theorem State.getV_setDraws (k : Nat) (x : Reg) : (s.setDraws k).getV x = s.getV x := rfl

/-- A register after the whole register file is replaced. -/
@[simp] theorem State.getV_setAllV (w : Vector Byte 16) (x : Reg) : (s.setAllV w).getV x = w[x.val] := rfl

/-- The flag-writing instructions: `V[x]` holds the result, `VF` the flag unless it is `V[x]` (R78). -/
theorem State.getV_writeFlagged (x y : Reg) (r : Flagged) :
    (s.writeFlagged x r).getV y = if y = x then r.result else if y = regF then r.flag else s.getV y := by
  simp [State.writeFlagged, State.getV_setV]

/-! The flag-writing instructions write no field but the registers. -/

@[simp] theorem State.writeFlagged_i (x : Reg) (r : Flagged) : (s.writeFlagged x r).i = s.i := rfl
@[simp] theorem State.writeFlagged_pc (x : Reg) (r : Flagged) : (s.writeFlagged x r).pc = s.pc := rfl
@[simp] theorem State.writeFlagged_sp (x : Reg) (r : Flagged) : (s.writeFlagged x r).sp = s.sp := rfl
@[simp] theorem State.writeFlagged_stack (x : Reg) (r : Flagged) : (s.writeFlagged x r).stack = s.stack := rfl
@[simp] theorem State.writeFlagged_dt (x : Reg) (r : Flagged) : (s.writeFlagged x r).dt = s.dt := rfl
@[simp] theorem State.writeFlagged_st (x : Reg) (r : Flagged) : (s.writeFlagged x r).st = s.st := rfl
@[simp] theorem State.writeFlagged_keys (x : Reg) (r : Flagged) : (s.writeFlagged x r).keys = s.keys := rfl
@[simp] theorem State.writeFlagged_display (x : Reg) (r : Flagged) : (s.writeFlagged x r).display = s.display := rfl
@[simp] theorem State.writeFlagged_mem (x : Reg) (r : Flagged) : (s.writeFlagged x r).mem = s.mem := rfl
@[simp] theorem State.writeFlagged_loadStoreQuirk (x : Reg) (r : Flagged) :
    (s.writeFlagged x r).loadStoreQuirk = s.loadStoreQuirk := rfl
@[simp] theorem State.writeFlagged_shiftQuirk (x : Reg) (r : Flagged) :
    (s.writeFlagged x r).shiftQuirk = s.shiftQuirk := rfl
@[simp] theorem State.writeFlagged_wrapping (x : Reg) (r : Flagged) : (s.writeFlagged x r).wrapping = s.wrapping := rfl
@[simp] theorem State.writeFlagged_period (x : Reg) (r : Flagged) : (s.writeFlagged x r).period = s.period := rfl
@[simp] theorem State.writeFlagged_cycleCredit (x : Reg) (r : Flagged) :
    (s.writeFlagged x r).cycleCredit = s.cycleCredit := rfl
@[simp] theorem State.writeFlagged_timerCredit (x : Reg) (r : Flagged) :
    (s.writeFlagged x r).timerCredit = s.timerCredit := rfl
@[simp] theorem State.writeFlagged_fault (x : Reg) (r : Flagged) : (s.writeFlagged x r).fault = s.fault := rfl
@[simp] theorem State.writeFlagged_session (x : Reg) (r : Flagged) : (s.writeFlagged x r).session = s.session := rfl
@[simp] theorem State.writeFlagged_draws (x : Reg) (r : Flagged) : (s.writeFlagged x r).draws = s.draws := rfl
@[simp] theorem State.byteAt_writeFlagged (x : Reg) (r : Flagged) (a : Nat) :
    (s.writeFlagged x r).byteAt a = s.byteAt a := rfl
@[simp] theorem State.stackEntry_writeFlagged (x : Reg) (r : Flagged) (k : Nat) :
    (s.writeFlagged x r).stackEntry k = s.stackEntry k := rfl

/-! ## Memory bytes -/

@[simp] theorem State.byteAt_setV (x : Reg) (b : Byte) (a : Nat) : (s.setV x b).byteAt a = s.byteAt a := rfl
@[simp] theorem State.byteAt_setAllV (w : Vector Byte 16) (a : Nat) : (s.setAllV w).byteAt a = s.byteAt a := rfl
@[simp] theorem State.byteAt_setI (w : Word) (a : Nat) : (s.setI w).byteAt a = s.byteAt a := rfl
@[simp] theorem State.byteAt_setPc (w : Word) (a : Nat) : (s.setPc w).byteAt a = s.byteAt a := rfl
@[simp] theorem State.byteAt_setSp (b : Byte) (a : Nat) : (s.setSp b).byteAt a = s.byteAt a := rfl
@[simp] theorem State.byteAt_setStackEntry (k : Nat) (w : Word) (a : Nat) :
    (s.setStackEntry k w).byteAt a = s.byteAt a := rfl
@[simp] theorem State.byteAt_setDt (b : Byte) (a : Nat) : (s.setDt b).byteAt a = s.byteAt a := rfl
@[simp] theorem State.byteAt_setSt (b : Byte) (a : Nat) : (s.setSt b).byteAt a = s.byteAt a := rfl
@[simp] theorem State.byteAt_setDisplay (d : Display) (a : Nat) : (s.setDisplay d).byteAt a = s.byteAt a := rfl
@[simp] theorem State.byteAt_setFault (f : Option FaultRecord) (a : Nat) : (s.setFault f).byteAt a = s.byteAt a := rfl
@[simp] theorem State.byteAt_setDraws (k : Nat) (a : Nat) : (s.setDraws k).byteAt a = s.byteAt a := rfl
@[simp] theorem State.byteAt_setMem (m : Memory) (a : Nat) : (s.setMem m).byteAt a = m.read a := rfl

/-! ## Stack entries and keys -/

/-- A stack entry after a write to an entry in range. -/
theorem State.stackEntry_setStackEntry (k j : Nat) (w : Word) (h : k < 16) :
    (s.setStackEntry k w).stackEntry j = if j = k then some w else s.stackEntry j := by
  by_cases hj : j = k
  · subst hj; simp [State.stackEntry, State.setStackEntry, h]
  · simp [State.stackEntry, State.setStackEntry, hj, Ne.symm hj]

@[simp] theorem State.stackEntry_setSp (b : Byte) (k : Nat) : (s.setSp b).stackEntry k = s.stackEntry k := rfl
@[simp] theorem State.stackEntry_setPc (w : Word) (k : Nat) : (s.setPc w).stackEntry k = s.stackEntry k := rfl
@[simp] theorem State.stackEntry_setV (x : Reg) (b : Byte) (k : Nat) :
    (s.setV x b).stackEntry k = s.stackEntry k := rfl
@[simp] theorem State.stackEntry_setAllV (w : Vector Byte 16) (k : Nat) :
    (s.setAllV w).stackEntry k = s.stackEntry k := rfl
@[simp] theorem State.stackEntry_setI (w : Word) (k : Nat) : (s.setI w).stackEntry k = s.stackEntry k := rfl
@[simp] theorem State.stackEntry_setDt (b : Byte) (k : Nat) : (s.setDt b).stackEntry k = s.stackEntry k := rfl
@[simp] theorem State.stackEntry_setSt (b : Byte) (k : Nat) : (s.setSt b).stackEntry k = s.stackEntry k := rfl
@[simp] theorem State.stackEntry_setMem (m : Memory) (k : Nat) : (s.setMem m).stackEntry k = s.stackEntry k := rfl
@[simp] theorem State.stackEntry_setDisplay (d : Display) (k : Nat) :
    (s.setDisplay d).stackEntry k = s.stackEntry k := rfl
@[simp] theorem State.stackEntry_setFault (f : Option FaultRecord) (k : Nat) :
    (s.setFault f).stackEntry k = s.stackEntry k := rfl
@[simp] theorem State.stackEntry_setDraws (n : Nat) (k : Nat) : (s.setDraws n).stackEntry k = s.stackEntry k := rfl

/-- A key level after the host sets one. -/
theorem State.key_setKeyLevel (k j : Reg) (d : Bool) : (s.setKeyLevel k d).key j = if j = k then d else s.key j := by
  simp [State.key, State.setKeyLevel, Vector.getElem_set, Fin.ext_iff, eq_comm]

/-- A register value is a key number exactly when it is at most 15 (R70). -/
theorem keyNumber_eq_some (b : Byte) (k : Reg) : keyNumber b = some k ↔ b.toNat = k.val := by
  unfold keyNumber
  split
  · simp [Fin.ext_iff]
  · simp; omega

theorem keyNumber_eq_none (b : Byte) : keyNumber b = none ↔ 15 < b.toNat := by
  unfold keyNumber
  split
  · simp; omega
  · simp; omega

/-- The lowest key that is down (R99). -/
theorem lowestKey_eq_some (k : Reg) :
    lowestKey s = some k ↔ s.key k = true ∧ ∀ j, j < k → s.key j = false := by
  simp only [lowestKey, List.find?_eq_some_iff_getElem, List.getElem_finRange]
  constructor
  · rintro ⟨hk, n, hn, hnk, hlt⟩
    refine ⟨hk, fun j hj => ?_⟩
    have hjn : j.val < n := by simp [← hnk] at hj; exact hj
    have := hlt j.val hjn
    simpa using this
  · rintro ⟨hk, hlt⟩
    refine ⟨hk, k.val, by simp, by simp, fun j hj => ?_⟩
    have := hlt ⟨j, by omega⟩ (by simp [Fin.lt_def]; exact hj)
    simpa using this

/-- No key is down. -/
theorem lowestKey_eq_none : lowestKey s = none ↔ ∀ k, s.key k = false := by
  simp [lowestKey]

/-! ## Endings -/

@[simp] theorem State.stepPc_pc : s.stepPc.pc = s.pc + 2 := rfl
@[simp] theorem State.skipPc_pc : s.skipPc.pc = s.pc + 4 := rfl
@[simp] theorem State.getV_stepPc (x : Reg) : s.stepPc.getV x = s.getV x := rfl
@[simp] theorem State.byteAt_stepPc (a : Nat) : s.stepPc.byteAt a = s.byteAt a := rfl

/-- An instruction that ends with `finish` answers the state with `PC + 2`, and nothing else. -/
theorem finish_eq_next (t : State) : finish s = .next t ↔ t = s.setPc (s.pc + 2) := by
  simp [finish, State.stepPc, eq_comm]

/-- A skip answers the state with `PC + 4` or `PC + 2`, and nothing else. -/
theorem skipIf_eq_next (p : Bool) (t : State) :
    skipIf p s = .next t ↔ t = s.setPc (if p then s.pc + 4 else s.pc + 2) := by
  cases p <;> simp [skipIf, State.stepPc, State.skipPc, eq_comm]

/-- A raised fault answers the state with the latch set, and nothing else (R112, R116). -/
theorem raise_eq_next (c : Cause) (i : Instr) (t : State) :
    raise c i s = .next t ↔ t = s.setFault (some ⟨c, s.pc, some (encode i)⟩) := by
  simp [raise, State.takeFault, eq_comm]

end Sys2Proof.Machine
end

