-- ==== Sys2Proof/Laws/Cycle.lean ====
section
/-! SUPPORT. What a fetch answers, and everything a step can do (R51, R55). -/

namespace Sys2Proof.Machine

/-- A fetch answers a word exactly when `PC` is at most 4094: the two bytes there, the first one high (R51, R38). -/
theorem fetch_eq_ok (s : State) (op : Word) :
    fetch s = .ok op ↔
      s.pc.toNat ≤ 4094 ∧ op = opOfBytes (s.byteAt s.pc.toNat) (s.byteAt (s.pc.toNat + 1)) := by
  unfold fetch
  by_cases h : s.pc.toNat ≤ 4094
  · rw [memRead_of_le _ _ (by omega)]
    simp only
    rw [memRead_of_le _ _ (by omega)]
    simp [h, State.byteAt, eq_comm]
  · by_cases h' : s.pc.toNat ≤ 4095
    · rw [memRead_of_le _ _ h']
      simp only
      rw [memRead_of_gt _ _ (by omega)]
      simp [h]
    · rw [memRead_of_gt _ _ (by omega)]
      simp [h]

/-- A fetch faults exactly when `PC` is 4095 or more, on its first address outside the memory (R51). -/
theorem fetch_eq_error (s : State) (c : Cause) :
    fetch s = .error c ↔ 4095 ≤ s.pc.toNat ∧ c = .outOfMemoryAccess (max s.pc.toNat 4096) := by
  unfold fetch
  by_cases h : s.pc.toNat ≤ 4094
  · rw [memRead_of_le _ _ (by omega)]
    simp only
    rw [memRead_of_le _ _ (by omega)]
    simp
    omega
  · by_cases h' : s.pc.toNat ≤ 4095
    · rw [memRead_of_le _ _ h']
      simp only
      rw [memRead_of_gt _ _ (by omega)]
      have : s.pc.toNat = 4095 := by omega
      simp [this, eq_comm]
    · rw [memRead_of_gt _ _ (by omega)]
      have : max s.pc.toNat 4096 = s.pc.toNat := by omega
      simp [this, eq_comm]
      omega

/-- The next instruction, from the fetched word. -/
theorem fetchDecode_eq_ok (s : State) (i : Instr) :
    fetchDecode s = .ok i ↔ ∃ op, fetch s = .ok op ∧ decodeWord op = .ok i := by
  unfold fetchDecode
  cases hf : fetch s with
  | error c => simp
  | ok op => cases hd : decodeWord op <;> simp [hd]

/-- The fault of a fetch or a decode, from what was fetched (R110, R114). -/
theorem fetchDecode_eq_error (s : State) (c : Cause) (o : Option Word) :
    fetchDecode s = .error (c, o) ↔
      (fetch s = .error c ∧ o = none) ∨
        ∃ op, fetch s = .ok op ∧ selectInstr op = none ∧ c = .unknownOpcode op ∧ o = some op := by
  unfold fetchDecode
  cases hf : fetch s with
  | error c' => simp [eq_comm]
  | ok op =>
    cases hd : decodeWord op with
    | ok i => simp [hd, (decodeWord_eq_ok op i).mp hd]
    | error e =>
      obtain ⟨hn, rfl⟩ := (decodeWord_eq_error op e).mp hd
      simp [hd, hn, decodeCause, eq_comm]

/-- EVERYTHING A STEP CAN ANSWER WITH A NEXT STATE: nothing on a latched fault; a fault of the fetch or the decode
taken; or what the fetched instruction does. -/
theorem step_cases (s t : State) (h : step s = .next t) :
    (s.fault.isSome = true ∧ t = s) ∨
      (s.fault = none ∧ ∃ c op, fetchDecode s = .error (c, op) ∧ t = s.setFault (some ⟨c, s.pc, op⟩)) ∨
      (s.fault = none ∧ ∃ i, fetchDecode s = .ok i ∧ exec i s = .next t) := by
  unfold step at h
  cases hf : s.fault with
  | some r => simp [hf] at h; simp [h]
  | none =>
    rw [hf] at h
    cases hd : fetchDecode s with
    | error p =>
      obtain ⟨c, op⟩ := p
      rw [hd] at h
      simp only [Host.Outcome.next.injEq] at h
      exact .inr (.inl ⟨rfl, c, op, rfl, h.symm⟩)
    | ok i =>
      rw [hd] at h
      exact .inr (.inr ⟨rfl, i, rfl, h⟩)

/-- A word placed at `PC` is the one the next fetch reads. -/
theorem fetch_placeWord (s : State) (op : Word) (hm : s.mem.wf = true) (hpc : s.pc.toNat ≤ 4094) :
    fetch (s.placeWord op) = .ok op := by
  rw [fetch_eq_ok]
  have h : s.pc.toNat + 1 ≤ 4095 := by omega
  simp only [State.placeWord, h, if_true, State.setMem_pc, State.byteAt_setMem]
  have hw := Memory.wf_write s.mem s.pc.toNat (opHigh op) hm (by omega)
  simp [Memory.read_write _ _ _ _ hw, Memory.read_write _ _ _ _ hm, hpc]

end Sys2Proof.Machine
end

