-- ==== Sys2Proof/Laws/Clock.lean ====
section
/-! SUPPORT. The whole part of a credit, and what ticks do to a state (R121, R123). -/

namespace Sys2Proof.Machine

/-- The whole credits of a non-negative counter leave a fraction in `[0, 1)` (R123). -/
theorem wholeCredits_spec (c : Rat) (h : 0 ≤ c) : (wholeCredits c : Rat) ≤ c ∧ c < wholeCredits c + 1 := by
  have hf : ((Int.floor c).toNat : ℤ) = Int.floor c := Int.toNat_of_nonneg (Int.floor_nonneg.mpr h)
  have hw : ((wholeCredits c : ℕ) : Rat) = ((Int.floor c : ℤ) : Rat) := by exact_mod_cast hf
  rw [hw]
  exact ⟨Int.floor_le c, Int.lt_floor_add_one c⟩

/-- A timer counts down by one and stays at 0 (R121). -/
theorem countDown_toNat (t : Byte) : (countDown t).toNat = t.toNat - 1 := by
  unfold countDown
  split
  · rw [BitVec.toNat_sub]; have := t.isLt; simp; omega
  · omega

/-- Paying and running `n` ticks changes the two timers and the timer credit, and nothing else. -/
theorem runTicks_eq (n : Nat) (s : State) :
    runTicks n s =
      (((s.setDt (countDown^[n] s.dt)).setSt (countDown^[n] s.st)).setCredits s.cycleCredit (s.timerCredit - n)) := by
  induction n generalizing s with
  | zero => simp [runTicks, State.setDt, State.setSt, State.setCredits]
  | succ n ih =>
    rw [runTicks, ih]
    simp only [tick, State.payTick, State.setDt, State.setSt, State.setCredits, Function.iterate_succ_apply]
    congr 1
    push_cast
    ring

/-- `n` counts of a timer take it down by `n`, to 0 at the least. -/
theorem iterate_countDown_toNat (n : Nat) (t : Byte) : (countDown^[n] t).toNat = t.toNat - n := by
  induction n generalizing t with
  | zero => rfl
  | succ n ih => rw [Function.iterate_succ_apply, ih, countDown_toNat]; omega

end Sys2Proof.Machine
end

