-- ==== Sys2Proof/Laws/Draw.lean ====
section
/-! SUPPORT. What toggling, clearing and plotting do to one cell, and where a pixel lands (R93, R94, R100). -/

namespace Sys2Proof.Machine

/-- Toggling a cell changes that cell and no other. -/
theorem Display.cell_toggle (d : Display) (r r' : Fin 32) (c c' : Fin 64) :
    (d.toggle r c).cell r' c' = if r' = r ∧ c' = c then !d.cell r c else d.cell r' c' := by
  simp only [Display.toggle, Display.cell]
  by_cases hr : r' = r
  · subst hr
    by_cases hc : c' = c
    · subst hc; simp
    · have : c.val ≠ c'.val := fun h => hc (Fin.ext h.symm)
      simp [hc, Vector.getElem_set_ne, this]
  · have : r.val ≠ r'.val := fun h => hr (Fin.ext h.symm)
    simp [hr, Vector.getElem_set_ne, this]

/-- Every cell of a cleared display is unlit. -/
@[simp] theorem Display.cell_clear (r : Fin 32) (c : Fin 64) : Display.clear.cell r c = false := by
  simp [Display.clear, Display.cell]

/-- Two displays with the same cells are the same display. -/
theorem Display.ext_cell (d e : Display) (h : ∀ r c, d.cell r c = e.cell r c) : d = e := by
  ext r hr c hc
  exact h ⟨r, hr⟩ ⟨c, hc⟩

/-- With `WRAPPING` every pixel lands, modulo the display (R93). -/
theorem pixelCell_wrapping (px py : Nat) : pixelCell true px py = some (Fin.ofNat 32 py, Fin.ofNat 64 px) := rfl

/-- Without it a pixel lands exactly when it is on the display (R93). -/
theorem pixelCell_clipping (px py : Nat) (r : Fin 32) (c : Fin 64) :
    pixelCell false px py = some (r, c) ↔ py = r.val ∧ px = c.val := by
  simp only [pixelCell, Bool.false_eq_true, if_false]
  split
  · simp; omega
  · simp [Fin.ext_iff, Fin.ofNat]
    omega

/-- One plotted pixel: its cell, if it lands, is toggled, and it collides exactly when that cell was lit. -/
theorem cell_plot (wrapping : Bool) (px py : Nat) (cv : Canvas) (r : Fin 32) (c : Fin 64) :
    (plot wrapping px py cv).display.cell r c =
      ((cv.display.cell r c) ^^ decide (pixelCell wrapping px py = some (r, c))) := by
  unfold plot
  cases h : pixelCell wrapping px py with
  | none => simp
  | some rc =>
    obtain ⟨r', c'⟩ := rc
    simp only [Display.cell_toggle, Option.some.injEq, Prod.mk.injEq]
    by_cases hrc : r = r' ∧ c = c'
    · obtain ⟨rfl, rfl⟩ := hrc; simp
    · rw [if_neg hrc, decide_eq_false (fun h => hrc ⟨h.1.symm, h.2.symm⟩)]; simp

theorem hit_plot (wrapping : Bool) (px py : Nat) (cv : Canvas) :
    (plot wrapping px py cv).hit = true ↔
      cv.hit = true ∨ ∃ r c, pixelCell wrapping px py = some (r, c) ∧ cv.display.cell r c = true := by
  unfold plot
  cases h : pixelCell wrapping px py with
  | none => simp
  | some rc =>
    obtain ⟨r', c'⟩ := rc
    simp

end Sys2Proof.Machine
end

