-- ==== Sys2Proof/Laws/PerInstr.lean ====
section
/-! SUPPORT. Per instruction: its word carries the fixed bits of its row of the opcode map (R56), whatever its fields
hold. -/

namespace Sys2Proof.Laws

/-- The bits of a word under a mask, bit by bit. -/
theorem and_eq_of_bits (w mask bits : Word)
    (h : ∀ k < 16, (w.getLsbD k && mask.getLsbD k) = bits.getLsbD k) : w &&& mask = bits := by
  apply BitVec.eq_of_getLsbD_eq
  intro k hk
  rw [BitVec.getLsbD_and]
  exact h k hk

theorem fixed_bits_NNN (f : Nibble) (a : Addr) : encodeNNN f a &&& 0xF000 = encodeNNN f 0 := by
  apply and_eq_of_bits
  intro k hk
  rw [bit_encodeNNN, bit_encodeNNN]
  interval_cases k <;> simp

theorem fixed_bits_XKK (f : Nibble) (x : Reg) (kk : Byte) : encodeXKK f x kk &&& 0xF000 = encodeNNN f 0 := by
  apply and_eq_of_bits
  intro k hk
  rw [bit_encodeXKK, bit_encodeNNN]
  interval_cases k <;> simp

theorem fixed_bits_XYN (f : Nibble) (x y : Reg) (n : Nibble) : encodeXYN f x y n &&& 0xF000 = encodeNNN f 0 := by
  apply and_eq_of_bits
  intro k hk
  rw [bit_encodeXYN, bit_encodeNNN]
  interval_cases k <;> simp

theorem fixed_bits_XY (f : Nibble) (x y : Reg) (n : Nibble) : encodeXYN f x y n &&& 0xF00F = encodeXYN f 0 0 n := by
  apply and_eq_of_bits
  intro k hk
  rw [bit_encodeXYN, bit_encodeXYN]
  interval_cases k <;> simp

theorem fixed_bits_X (f : Nibble) (x : Reg) (low : Byte) : encodeX f x low &&& 0xF0FF = encodeXKK f 0 low := by
  apply and_eq_of_bits
  intro k hk
  rw [encodeX_eq, bit_encodeXKK, bit_encodeXKK]
  interval_cases k <;> simp

/-- The word of the instruction, under the mask of its row, is the row's fixed bits (R56). -/
def FixedBits.Statement (i : Instr) : Prop := encode i &&& i.row.mask = i.row.bits

open FixedBits (Statement)

theorem FixedBits.nop : Statement .nop := rfl
theorem FixedBits.cls : Statement .cls := rfl
theorem FixedBits.ret : Statement .ret := rfl
theorem FixedBits.jp (a : Addr) : Statement (.jp a) := fixed_bits_NNN _ _
theorem FixedBits.call (a : Addr) : Statement (.call a) := fixed_bits_NNN _ _
theorem FixedBits.seImm (x : Reg) (kk : Byte) : Statement (.seImm x kk) := fixed_bits_XKK _ _ _
theorem FixedBits.sneImm (x : Reg) (kk : Byte) : Statement (.sneImm x kk) := fixed_bits_XKK _ _ _
theorem FixedBits.seReg (x y : Reg) : Statement (.seReg x y) := fixed_bits_XY _ _ _ _
theorem FixedBits.ldImm (x : Reg) (kk : Byte) : Statement (.ldImm x kk) := fixed_bits_XKK _ _ _
theorem FixedBits.addImm (x : Reg) (kk : Byte) : Statement (.addImm x kk) := fixed_bits_XKK _ _ _
theorem FixedBits.ldReg (x y : Reg) : Statement (.ldReg x y) := fixed_bits_XY _ _ _ _
theorem FixedBits.orReg (x y : Reg) : Statement (.orReg x y) := fixed_bits_XY _ _ _ _
theorem FixedBits.andReg (x y : Reg) : Statement (.andReg x y) := fixed_bits_XY _ _ _ _
theorem FixedBits.xorReg (x y : Reg) : Statement (.xorReg x y) := fixed_bits_XY _ _ _ _
theorem FixedBits.addReg (x y : Reg) : Statement (.addReg x y) := fixed_bits_XY _ _ _ _
theorem FixedBits.subReg (x y : Reg) : Statement (.subReg x y) := fixed_bits_XY _ _ _ _
theorem FixedBits.shr (x y : Reg) : Statement (.shr x y) := fixed_bits_XY _ _ _ _
theorem FixedBits.subn (x y : Reg) : Statement (.subn x y) := fixed_bits_XY _ _ _ _
theorem FixedBits.shl (x y : Reg) : Statement (.shl x y) := fixed_bits_XY _ _ _ _
theorem FixedBits.sneReg (x y : Reg) (n : Nibble) : Statement (.sneReg x y n) := fixed_bits_XYN _ _ _ _
theorem FixedBits.ldI (a : Addr) : Statement (.ldI a) := fixed_bits_NNN _ _
theorem FixedBits.jpV0 (a : Addr) : Statement (.jpV0 a) := fixed_bits_NNN _ _
theorem FixedBits.rnd (x : Reg) (kk : Byte) : Statement (.rnd x kk) := fixed_bits_XKK _ _ _
theorem FixedBits.drw (x y : Reg) (n : Nibble) : Statement (.drw x y n) := fixed_bits_XYN _ _ _ _
theorem FixedBits.skp (x : Reg) : Statement (.skp x) := fixed_bits_X _ _ _
theorem FixedBits.sknp (x : Reg) : Statement (.sknp x) := fixed_bits_X _ _ _
theorem FixedBits.ldFromDt (x : Reg) : Statement (.ldFromDt x) := fixed_bits_X _ _ _
theorem FixedBits.ldKey (x : Reg) : Statement (.ldKey x) := fixed_bits_X _ _ _
theorem FixedBits.ldDt (x : Reg) : Statement (.ldDt x) := fixed_bits_X _ _ _
theorem FixedBits.ldSt (x : Reg) : Statement (.ldSt x) := fixed_bits_X _ _ _
theorem FixedBits.addI (x : Reg) : Statement (.addI x) := fixed_bits_X _ _ _
theorem FixedBits.ldFont (x : Reg) : Statement (.ldFont x) := fixed_bits_X _ _ _
theorem FixedBits.ldBcd (x : Reg) : Statement (.ldBcd x) := fixed_bits_X _ _ _
theorem FixedBits.storeRegs (x : Reg) : Statement (.storeRegs x) := fixed_bits_X _ _ _
theorem FixedBits.loadRegs (x : Reg) : Statement (.loadRegs x) := fixed_bits_X _ _ _

end Sys2Proof.Laws
end

