-- ==== Sys2Proof/Laws/Reset.lean ====
section
/-! SUPPORT. What reset leaves, field by field, and what its memory reads as (R132, R133). -/

namespace Sys2Proof.Machine

variable (cfg : SessionConfig) (s : State)

/-! ## Field by field -/

@[simp] theorem State.restart_v : (s.restart cfg).v = Vector.replicate 16 0 := rfl
@[simp] theorem State.restart_i : (s.restart cfg).i = 0 := rfl
@[simp] theorem State.restart_pc : (s.restart cfg).pc = 0x200 := rfl
@[simp] theorem State.restart_sp : (s.restart cfg).sp = 0 := rfl
@[simp] theorem State.restart_stack : (s.restart cfg).stack = Vector.replicate 16 0 := rfl
@[simp] theorem State.restart_dt : (s.restart cfg).dt = 0 := rfl
@[simp] theorem State.restart_st : (s.restart cfg).st = 0 := rfl
@[simp] theorem State.restart_keys : (s.restart cfg).keys = Vector.replicate 16 false := rfl
@[simp] theorem State.restart_display : (s.restart cfg).display = Display.clear := rfl
@[simp] theorem State.restart_mem : (s.restart cfg).mem = Memory.ofFont cfg.font := by
  simp only [State.restart, State.setDraws, State.resetWith]
@[simp] theorem State.restart_loadStoreQuirk : (s.restart cfg).loadStoreQuirk = cfg.loadStoreQuirk := rfl
@[simp] theorem State.restart_shiftQuirk : (s.restart cfg).shiftQuirk = cfg.shiftQuirk := rfl
@[simp] theorem State.restart_wrapping : (s.restart cfg).wrapping = cfg.wrapping := rfl
@[simp] theorem State.restart_period : (s.restart cfg).period = cfg.period := rfl
@[simp] theorem State.restart_cycleCredit : (s.restart cfg).cycleCredit = 0 := rfl
@[simp] theorem State.restart_timerCredit : (s.restart cfg).timerCredit = 0 := rfl
@[simp] theorem State.restart_fault : (s.restart cfg).fault = none := rfl
@[simp] theorem State.restart_session : (s.restart cfg).session = .fresh := rfl
@[simp] theorem State.restart_draws : (s.restart cfg).draws = s.draws := rfl

@[simp] theorem State.resetWith_v : (State.resetWith cfg).v = Vector.replicate 16 0 := rfl
@[simp] theorem State.resetWith_i : (State.resetWith cfg).i = 0 := rfl
@[simp] theorem State.resetWith_pc : (State.resetWith cfg).pc = 0x200 := rfl
@[simp] theorem State.resetWith_sp : (State.resetWith cfg).sp = 0 := rfl
@[simp] theorem State.resetWith_stack : (State.resetWith cfg).stack = Vector.replicate 16 0 := rfl
@[simp] theorem State.resetWith_dt : (State.resetWith cfg).dt = 0 := rfl
@[simp] theorem State.resetWith_st : (State.resetWith cfg).st = 0 := rfl
@[simp] theorem State.resetWith_keys : (State.resetWith cfg).keys = Vector.replicate 16 false := rfl
@[simp] theorem State.resetWith_display : (State.resetWith cfg).display = Display.clear := rfl
@[simp] theorem State.resetWith_mem : (State.resetWith cfg).mem = Memory.ofFont cfg.font := by
  simp only [State.resetWith]
@[simp] theorem State.resetWith_loadStoreQuirk : (State.resetWith cfg).loadStoreQuirk = cfg.loadStoreQuirk := rfl
@[simp] theorem State.resetWith_shiftQuirk : (State.resetWith cfg).shiftQuirk = cfg.shiftQuirk := rfl
@[simp] theorem State.resetWith_wrapping : (State.resetWith cfg).wrapping = cfg.wrapping := rfl
@[simp] theorem State.resetWith_period : (State.resetWith cfg).period = cfg.period := rfl
@[simp] theorem State.resetWith_cycleCredit : (State.resetWith cfg).cycleCredit = 0 := rfl
@[simp] theorem State.resetWith_timerCredit : (State.resetWith cfg).timerCredit = 0 := rfl
@[simp] theorem State.resetWith_fault : (State.resetWith cfg).fault = none := rfl
@[simp] theorem State.resetWith_session : (State.resetWith cfg).session = .fresh := rfl
@[simp] theorem State.resetWith_draws : (State.resetWith cfg).draws = 0 := rfl

/-! ## The memory after reset -/

@[simp] theorem length_fontBytes (f : Font) : (fontBytes f).length = 80 := by simp [fontBytes]

/-- Byte `k` of glyph `d` of a font (R44). -/
theorem fontByte_glyph (f : Font) (d : Fin 16) (k : Fin 5) : fontByte f (5 * d.val + k.val) = f[d.val][k.val] := by
  have hd : (5 * d.val + k.val) / 5 = d.val := by omega
  have hk : (5 * d.val + k.val) % 5 = k.val := by omega
  simp [fontByte, hd, hk]

/-- Past its 80 bytes a font gives zero. -/
theorem fontByte_of_ge (f : Font) (a : Nat) (h : 80 ≤ a) : fontByte f a = 0 := by
  have : f[a / 5]? = none := Vector.getElem?_eq_none (by omega)
  simp [fontByte, this]

/-- An address that memory does not list reads as zero past the font. -/
theorem resetByte_of_ge (a : Nat) (h : 80 ≤ a) : resetByte a = 0 := fontByte_of_ge _ a h

/-- The memory after reset is in canonical form. -/
@[simp] theorem Memory.wf_ofFont (f : Font) : (Memory.ofFont f).wf = true :=
  Memory.wf_writeBytes [] 0 (fontBytes f) rfl (by simp)

/-- The memory after reset reads as the font laid out from address 0, and as zero past it. -/
theorem Memory.read_ofFont (f : Font) (a : Nat) : (Memory.ofFont f).read a = fontByte f a := by
  unfold Memory.ofFont
  rw [Memory.read_writeBytes [] 0 a (fontBytes f) rfl (by simp)]
  by_cases h : a < 80
  · simp [h, fontBytes]
  · rw [if_neg (by simp; omega), fontByte_of_ge f a (by omega)]
    exact resetByte_of_ge a (by omega)

end Sys2Proof.Machine
end

