-- ==== Sys2Proof/Tests/Slice0.lean ====
section
/-! SUPPORT. The model's own tests. Expected results are those of spec/95_test_vectors.md (each test's docstring names
the line) or are worked out by hand from the rule it names, never read off the model. The last part shows, for every
statement with hypotheses, concrete data that meet them all. -/

namespace Sys2Proof.Tests

open Sys2Proof Sys2Proof.Machine

/-! ## Helpers -/

/-- A state with some registers set. -/
def withV (regs : List (Reg × Byte)) (s : State) : State := regs.foldl (fun s p => s.setV p.1 p.2) s

/-- A state with some bytes of memory set from an address up. -/
def withBytes (a : Nat) (bytes : List Byte) (s : State) : State := s.setMem (Memory.writeBytes s.mem a bytes)

/-- A state with one display cell lit. -/
def withLit (r : Fin 32) (c : Fin 64) (s : State) : State := s.setDisplay (s.display.toggle r c)

/-- A state with a register set in the stack pointer and one stack entry. -/
def withStack (sp : Byte) (k : Nat) (w : Word) (s : State) : State := (s.setSp sp).setStackEntry k w

/-- An outcome is a next state of which something holds. -/
def gives (o : StepOutcome) (p : State → Bool) : Bool :=
  match o with
  | .next t => p t
  | .fault _ => false
  | .refused _ => false

/-- The next state of an outcome; the reset state where there is none. -/
def after (o : StepOutcome) : State :=
  match o with
  | .next t => t
  | .fault _ => State.reset
  | .refused _ => State.reset

/-- A transaction takes place with a state and a reply of which something holds. -/
def does (o : TransactionOutcome) (p : State → Reply → Bool) : Bool :=
  match o with
  | .done t r => p t r
  | .rejected _ _ => false
  | .refused _ => false
  | .stopped _ => false
  | .unmodelled _ => false

/-- The state after a transaction; the reset state where it did not take place. -/
def afterDone (o : TransactionOutcome) : State :=
  match o with
  | .done t _ => t
  | .rejected _ _ => State.reset
  | .refused _ => State.reset
  | .stopped _ => State.reset
  | .unmodelled _ => State.reset

/-- A step latches this cause, at this `PC`, with this opcode, and has kept `PC`. -/
def latches (o : StepOutcome) (cause : Cause) (pc : Word) (op : Option Word) : Bool :=
  gives o fun t => decide (t.fault = some ⟨cause, pc, op⟩) && t.pc == pc

/-! ## Well-formedness: what is accepted, and an ill-formed term for each check -/

theorem test_wellFormed_accepts_every_field : (Instr.sneReg 15 15 15).wellFormed = true := by decide

theorem test_default_configuration_is_wellFormed : SessionConfig.default.wellFormed = true := by decide +kernel

/-- R27: a period is positive. -/
theorem test_period_zero_is_refused : { SessionConfig.default with period := 0 }.wellFormed = false := by
  decide +kernel

theorem test_period_negative_is_refused : { SessionConfig.default with period := -1 }.wellFormed = false := by
  decide +kernel

/-- R45: bytes 5 to 9 of the font are fixed. -/
theorem test_font_without_glyph_one_is_refused :
    { SessionConfig.default with font := Vector.replicate 16 (Vector.replicate 5 0) }.wellFormed = false := by
  decide +kernel

/-- R123, D17: an elapsed time is not negative. -/
theorem test_elapsed_negative_is_refused : elapsedOk (-1) = false := by decide +kernel

/-- R134: 3584 bytes fit, 3585 do not. -/
theorem test_image_of_3585_bytes_is_refused : imageFits 3584 = true ∧ imageFits 3585 = false := by decide

/-- R126: key 15 is the last. -/
theorem test_key_16_is_refused : keyOk 15 = true ∧ keyOk 16 = false := by decide

theorem test_reset_refuses_a_zero_period :
    transact (.reset { SessionConfig.default with period := 0 }) State.reset = .refused .badConfiguration := by
  rfl

theorem test_run_refuses_a_negative_time : transact (.run (-1)) State.reset = .refused .negativeTime := by rfl

/-! ## Decoding: every constructor by a word written out from the opcode map (R56), its fields from the most
significant bit down -/

theorem test_decode_nop : decodeWord 0b0000000000000000 = .ok .nop := by decide
theorem test_decode_cls : decodeWord 0b0000000011100000 = .ok .cls := by decide
theorem test_decode_ret : decodeWord 0b0000000011101110 = .ok .ret := by decide
theorem test_decode_jp : decodeWord 0b0001101010111100 = .ok (.jp 0xABC) := by decide
theorem test_decode_call : decodeWord 0b0010001000001010 = .ok (.call 0x20A) := by decide
theorem test_decode_seImm : decodeWord 0b0011000100110011 = .ok (.seImm 1 0x33) := by decide
theorem test_decode_sneImm : decodeWord 0b0100000100110100 = .ok (.sneImm 1 0x34) := by decide
theorem test_decode_seReg : decodeWord 0b0101000100100000 = .ok (.seReg 1 2) := by decide
theorem test_decode_ldImm : decodeWord 0b0110001110101011 = .ok (.ldImm 3 0xAB) := by decide
theorem test_decode_addImm : decodeWord 0b0111001100000101 = .ok (.addImm 3 0x05) := by decide
theorem test_decode_ldReg : decodeWord 0b1000000100100000 = .ok (.ldReg 1 2) := by decide
theorem test_decode_orReg : decodeWord 0b1000000100100001 = .ok (.orReg 1 2) := by decide
theorem test_decode_andReg : decodeWord 0b1000000100100010 = .ok (.andReg 1 2) := by decide
theorem test_decode_xorReg : decodeWord 0b1000000100100011 = .ok (.xorReg 1 2) := by decide
theorem test_decode_addReg : decodeWord 0b1000101010110100 = .ok (.addReg 10 11) := by decide
theorem test_decode_subReg : decodeWord 0b1000000100100101 = .ok (.subReg 1 2) := by decide
theorem test_decode_shr : decodeWord 0b1000000100100110 = .ok (.shr 1 2) := by decide
theorem test_decode_subn : decodeWord 0b1000000100100111 = .ok (.subn 1 2) := by decide
theorem test_decode_shl : decodeWord 0b1000000100101110 = .ok (.shl 1 2) := by decide
theorem test_decode_sneReg : decodeWord 0b1001000100100101 = .ok (.sneReg 1 2 5) := by decide
theorem test_decode_ldI : decodeWord 0b1010000000000101 = .ok (.ldI 0x005) := by decide
theorem test_decode_jpV0 : decodeWord 0b1011001101000101 = .ok (.jpV0 0x345) := by decide
theorem test_decode_rnd : decodeWord 0b1100001100001111 = .ok (.rnd 3 0x0F) := by decide
theorem test_decode_drw : decodeWord 0b1101000100100101 = .ok (.drw 1 2 5) := by decide
theorem test_decode_skp : decodeWord 0b1110010010011110 = .ok (.skp 4) := by decide
theorem test_decode_sknp : decodeWord 0b1110010010100001 = .ok (.sknp 4) := by decide
theorem test_decode_ldFromDt : decodeWord 0b1111001100000111 = .ok (.ldFromDt 3) := by decide
theorem test_decode_ldKey : decodeWord 0b1111001100001010 = .ok (.ldKey 3) := by decide
theorem test_decode_ldDt : decodeWord 0b1111001100010101 = .ok (.ldDt 3) := by decide
theorem test_decode_ldSt : decodeWord 0b1111001100011000 = .ok (.ldSt 3) := by decide
theorem test_decode_addI : decodeWord 0b1111001000011110 = .ok (.addI 2) := by decide
theorem test_decode_ldFont : decodeWord 0b1111001000101001 = .ok (.ldFont 2) := by decide
theorem test_decode_ldBcd : decodeWord 0b1111000000110011 = .ok (.ldBcd 0) := by decide
theorem test_decode_storeRegs : decodeWord 0b1111001001010101 = .ok (.storeRegs 2) := by decide
theorem test_decode_loadRegs : decodeWord 0b1111001001100101 = .ok (.loadRegs 2) := by decide

/-- V30 line 3, bytes as memory holds them. -/
theorem test_decode_bytes : decodeBytes [0x8A, 0xB4, 0x12] = .ok (.addReg 10 11, [0x12]) := by decide

theorem test_decode_truncated : decodeBytes [0x8A] = .error .truncated := by decide

/-- V41 lines 8, 18, V42 line 30, V48 line 3, V49 line 15: words of no row. -/
theorem test_decode_unknown :
    [0x5121, 0xE49F, 0x8128, 0x812D, 0x812F, 0x00E1, 0x00FF, 0x0123, 0x0EEE, 0xF300, 0xF316, 0xF3FF].all
      (fun op => decide (decodeWord op = .error (.unknownOpcode op))) = true := by decide

theorem test_decodeTableWord : decodeTableWord 16 0xD125 = some (.drw 1 2 5) := by decide

theorem test_opcode_map_has_35_rows : opcodeMap.length = 35 := by decide

/-! ## Fetch, the cycle and the fault latch -/

/-- T10, V30 line 1: `A0 05` at 0x200 is fetched as 0xA005. -/
theorem test_fetch_is_big_endian : fetch (withBytes 0x200 [0xA0, 0x05] State.reset) = .ok 0xA005 := by decide

/-- V30 lines 4 and 5: 0xFFE is the last legal fetch address, 0xFFF faults on 4096. -/
theorem test_fetch_at_the_top :
    fetch ((withBytes 0xFFE [0x22, 0x00] State.reset).setPc 0xFFE) = .ok 0x2200 ∧
      fetch (State.reset.setPc 0xFFF) = .error (.outOfMemoryAccess 4096) := by decide

/-- V30 line 7. -/
theorem test_step_faults_above_the_memory :
    latches (step (State.reset.setPc 0x1002)) (.outOfMemoryAccess 4098) 0x1002 none = true := by decide

/-- V41 line 8, R111: an unknown opcode records its word. -/
theorem test_step_faults_on_an_unknown_opcode :
    latches (step (State.reset.withFetchWord 16 0x5121)) (.unknownOpcode 0x5121) 0x200 (some 0x5121) = true := by
  decide

/-- V61 line 8: a latched core does nothing. -/
theorem test_latched_step_does_nothing :
    gives (step (State.reset.setFault (some ⟨.unknownOpcode 0x5121, 0x200, some 0x5121⟩)))
      (fun t => t.pc == 0x200 && t.fault.isSome) = true := by decide

/-- The first step from reset with a placed word runs it (V42 line 1). -/
theorem test_step_runs_the_placed_word :
    gives (step (State.reset.withFetchWord 16 0x63AB)) (fun t => t.getV 3 == 0xAB && t.pc == 0x202) = true := by
  decide

/-- V30 line 8: with nothing loaded the first cycle executes `0000`. -/
theorem test_step_from_reset_is_nop : gives (step State.reset) (fun t => t.pc == 0x202) = true := by decide

/-! ## Instructions: at most two tests each -/

/-- V48 line 2. -/
theorem test_nop :
    gives (exec .nop State.reset) (fun t => t.pc == 0x202) = true := by
  decide

/-- V48 line 1: the lit cell goes dark, `VF` stays 1. -/
theorem test_cls :
    gives (exec .cls (withV [(15, 1)] (withLit 3 5 State.reset)))
      (fun t => !t.display.cell 3 5 && t.getV 15 == 1 && t.pc == 0x202) = true := by
  decide

/-- V40 line 4: an odd target is accepted. -/
theorem test_jp :
    gives (exec (.jp 0x301) State.reset) (fun t => t.pc == 0x301) = true := by
  decide

/-- V40 line 5. -/
theorem test_call :
    gives (exec (.call 0x20A) (State.reset.setPc 0x204))
      (fun t => t.stackEntry 0 == some 0x204 && t.sp == 1 && t.pc == 0x20A) = true := by
  decide

/-- V40 line 8. -/
theorem test_call_overflow :
    latches (exec (.call 0x300) (State.reset.setSp 16)) (.stackOverflow 0x2300) 0x200 (some 0x2300) = true := by
  decide

/-- V40 line 6: the entry stays. -/
theorem test_ret :
    gives (exec .ret ((withStack 1 0 0x204 State.reset).setPc 0x20C))
      (fun t => t.sp == 0 && t.pc == 0x206 && t.stackEntry 0 == some 0x204) = true := by
  decide

/-- V40 line 9, P6. -/
theorem test_ret_underflow :
    latches (exec .ret State.reset) (.stackUnderflow 0x00EE) 0x200 (some 0x00EE) = true := by
  decide

/-- After V40 line 15, with `V[0]` at 1: the offset is `V[0]`, not `V[3]`. -/
theorem test_jpV0 :
    gives (exec (.jpV0 0x345) (withV [(3, 0x55), (0, 0x01)] State.reset)) (fun t => t.pc == 0x346) = true := by
  decide

/-- V40 line 14: the sum is not reduced. -/
theorem test_jpV0_out_of_memory :
    latches (exec (.jpV0 0xFFF) (withV [(0, 0xFF)] State.reset)) (.outOfMemoryAccess 0x10FE) 0x200 (some 0xBFFF) =
      true := by
  decide

/-- V41 lines 1 and 2. -/
theorem test_seImm :
    (gives (exec (.seImm 1 0x33) (withV [(1, 0x33)] State.reset)) (fun t => t.pc == 0x204) &&
      gives (exec (.seImm 1 0x34) (withV [(1, 0x33)] State.reset)) (fun t => t.pc == 0x202)) = true := by
  decide

/-- V41 lines 3 and 4. -/
theorem test_sneImm :
    (gives (exec (.sneImm 1 0x33) (withV [(1, 0x33)] State.reset)) (fun t => t.pc == 0x202) &&
      gives (exec (.sneImm 1 0x34) (withV [(1, 0x33)] State.reset)) (fun t => t.pc == 0x204)) = true := by
  decide

/-- V41 lines 5 and 6. -/
theorem test_seReg :
    (gives (exec (.seReg 1 2) (withV [(1, 7), (2, 7)] State.reset)) (fun t => t.pc == 0x204) &&
      gives (exec (.seReg 1 2) (withV [(1, 7), (2, 8)] State.reset)) (fun t => t.pc == 0x202)) = true := by
  decide

/-- V41 lines 10 and 12: the low nibble plays no part. -/
theorem test_sneReg :
    (gives (exec (.sneReg 1 2 0) (withV [(1, 7), (2, 7)] State.reset)) (fun t => t.pc == 0x202) &&
      gives (exec (.sneReg 1 2 5) (withV [(1, 7), (2, 8)] State.reset)) (fun t => t.pc == 0x204)) = true := by
  decide

/-- V41 lines 13 and 14. -/
theorem test_skp :
    (gives (exec (.skp 4) ((withV [(4, 10)] State.reset).setKeyLevel 10 true)) (fun t => t.pc == 0x204) &&
      gives (exec (.skp 4) (withV [(4, 10)] State.reset)) (fun t => t.pc == 0x202)) = true := by
  decide

/-- V41 line 17: no masking. -/
theorem test_skp_unknown_key :
    latches (exec (.skp 4) (withV [(4, 0x10)] State.reset)) (.unknownKey 16) 0x200 (some 0xE49E) = true := by
  decide

/-- V41 lines 15 and 16. -/
theorem test_sknp :
    (gives (exec (.sknp 4) ((withV [(4, 10)] State.reset).setKeyLevel 10 true)) (fun t => t.pc == 0x202) &&
      gives (exec (.sknp 4) (withV [(4, 10)] State.reset)) (fun t => t.pc == 0x204)) = true := by
  decide

/-- V41 line 17. -/
theorem test_sknp_unknown_key :
    latches (exec (.sknp 4) (withV [(4, 0x10)] State.reset)) (.unknownKey 16) 0x200 (some 0xE4A1) = true := by
  decide

/-- V42 line 2: an ordinary write to `VF`. -/
theorem test_ldImm :
    gives (exec (.ldImm 15 0x00) (withV [(15, 1)] State.reset)) (fun t => t.getV 15 == 0 && t.pc == 0x202) = true := by
  decide

/-- V42 line 4: no carry flag. -/
theorem test_addImm :
    gives (exec (.addImm 3 0x01) (withV [(3, 0xFF)] State.reset)) (fun t => t.getV 3 == 0 && t.getV 15 == 0) =
      true := by
  decide

/-- V42 line 5. -/
theorem test_addImm_keeps_flag :
    gives (exec (.addImm 3 0xFF) (withV [(3, 0xFE), (15, 1)] State.reset))
      (fun t => t.getV 3 == 0xFD && t.getV 15 == 1) =
      true := by
  decide

/-- V42 line 7. -/
theorem test_ldReg :
    gives (exec (.ldReg 1 2) (withV [(1, 0x11), (2, 0x22)] State.reset))
      (fun t => t.getV 1 == 0x22 && t.getV 2 == 0x22) =
      true := by
  decide

/-- V42 line 8. -/
theorem test_orReg :
    gives (exec (.orReg 1 2) (withV [(1, 0xF0), (2, 0x3C), (15, 1)] State.reset))
      (fun t => t.getV 1 == 0xFC && t.getV 15 == 1) = true := by
  decide

/-- V42 line 9. -/
theorem test_andReg :
    gives (exec (.andReg 1 2) (withV [(1, 0xF0), (2, 0x3C), (15, 1)] State.reset))
      (fun t => t.getV 1 == 0x30 && t.getV 15 == 1) = true := by
  decide

/-- V42 line 10. -/
theorem test_xorReg :
    gives (exec (.xorReg 1 2) (withV [(1, 0xF0), (2, 0x3C), (15, 1)] State.reset))
      (fun t => t.getV 1 == 0xCC && t.getV 15 == 1) = true := by
  decide

/-- T3, V42 line 13. -/
theorem test_addReg :
    gives (exec (.addReg 1 2) (withV [(1, 0xFF), (2, 0x01)] State.reset))
      (fun t => t.getV 1 == 0 && t.getV 2 == 1 && t.getV 15 == 1) = true := by
  decide

/-- V42 lines 32 and 33: `VF` as destination and as operand. -/
theorem test_addReg_flag_operand :
    (gives (exec (.addReg 15 15) (withV [(15, 0x80)] State.reset)) (fun t => t.getV 15 == 0) &&
      gives (exec (.addReg 0 15) (withV [(0, 0x10), (15, 0xF8)] State.reset))
      (fun t => t.getV 0 == 8 && t.getV 15 == 1)) =
      true := by
  decide

/-- T4, V42 line 18. -/
theorem test_subReg :
    gives (exec (.subReg 1 2) (withV [(1, 0x01), (2, 0x02)] State.reset))
      (fun t => t.getV 1 == 0xFF && t.getV 15 == 0) =
      true := by
  decide

/-- V42 lines 19 and 34: equal operands do not borrow; the difference is written last. -/
theorem test_subReg_flag_destination :
    (gives (exec (.subReg 1 2) State.reset) (fun t => t.getV 1 == 0 && t.getV 15 == 1) &&
      gives (exec (.subReg 15 1) (withV [(15, 5), (1, 9)] State.reset)) (fun t => t.getV 15 == 0xFC)) = true := by
  decide

/-- V42 lines 21 and 22. -/
theorem test_subn :
    (gives (exec (.subn 1 2) (withV [(1, 1), (2, 2)] State.reset)) (fun t => t.getV 1 == 1 && t.getV 15 == 1) &&
      gives (exec (.subn 1 2) (withV [(1, 2), (2, 1)] State.reset)) (fun t => t.getV 1 == 0xFF && t.getV 15 == 0)) =
      true := by
  decide

/-- V42 line 23: without `SHIFT_QUIRK`, `V[y]` is shifted. -/
theorem test_shr :
    gives (exec (.shr 1 2) (withV [(1, 0x81), (2, 0x03)] State.reset))
      (fun t => t.getV 1 == 0x01 && t.getV 2 == 3 && t.getV 15 == 1) = true := by
  decide

/-- V42 line 24: with it, `V[x]` is. -/
theorem test_shr_quirk :
    gives (exec (.shr 1 2) (withV [(1, 0x81), (2, 0x03)] { State.reset with shiftQuirk := true }))
      (fun t => t.getV 1 == 0x40 && t.getV 2 == 3 && t.getV 15 == 1) = true := by
  decide

/-- V42 line 25: without `SHIFT_QUIRK`, `V[y]` is shifted. -/
theorem test_shl :
    gives (exec (.shl 1 2) (withV [(1, 0x81), (2, 0x03)] State.reset))
      (fun t => t.getV 1 == 0x06 && t.getV 2 == 3 && t.getV 15 == 0) = true := by
  decide

/-- V42 line 26: with it, `V[x]` is. -/
theorem test_shl_quirk :
    gives (exec (.shl 1 2) (withV [(1, 0x81), (2, 0x03)] { State.reset with shiftQuirk := true }))
      (fun t => t.getV 1 == 0x02 && t.getV 2 == 3 && t.getV 15 == 1) = true := by
  decide

/-- V49 line 2. -/
theorem test_ldI :
    gives (exec (.ldI 0xFFF) (State.reset.setI 0x123)) (fun t => t.i == 0x0FFF && t.pc == 0x202) = true := by
  decide

/-- V44 line 6: one cell is erased, one is lit, and `VF` is 1. -/
theorem test_drw :
    gives (exec (.drw 0 1 1) ((withLit 0 0 (withBytes 0x300 [0xC0] State.reset)).setI 0x300))
      (fun t => !t.display.cell 0 0 && t.display.cell 0 1 && t.getV 15 == 1) = true := by
  decide +kernel

/-- V44 lines 8 and 9: the corner sprite, wrapped and clipped. -/
theorem test_drw_wraps_or_clips :
    ([true, false].all fun wrap =>
      gives (exec (.drw 0 1 2) ((withV [(0, 62), (1, 31)]
          (withBytes 0x300 [0xF0, 0xF0] { State.reset with wrapping := wrap })).setI 0x300))
        (fun t => t.display.cell 31 62 && t.display.cell 31 63 && (t.display.cell 31 0 == wrap) &&
          (t.display.cell 0 63 == wrap) && (t.display.cell 0 1 == wrap) && t.getV 15 == 0)) = true := by
  decide +kernel

/-- V49 line 10. -/
theorem test_ldFromDt :
    gives (exec (.ldFromDt 3) (State.reset.setDt 0x2C)) (fun t => t.getV 3 == 0x2C && t.dt == 0x2C) = true := by
  decide

/-- V47 line 3: the lowest key. -/
theorem test_ldKey :
    gives (exec (.ldKey 3) ((State.reset.setKeyLevel 9 true).setKeyLevel 7 true))
      (fun t => t.getV 3 == 7 && t.pc == 0x202) =
      true := by
  decide

/-- V47 line 1. -/
theorem test_ldKey_stalls :
    gives (exec (.ldKey 3) State.reset) (fun t => t.pc == 0x200 && t.getV 3 == 0) = true := by
  decide

/-- V49 line 11. -/
theorem test_ldDt :
    gives (exec (.ldDt 3) (withV [(3, 0x3C)] State.reset)) (fun t => t.dt == 0x3C && t.st == 0) = true := by
  decide

/-- V49 line 13. -/
theorem test_ldSt :
    gives (exec (.ldSt 3) (withV [(3, 2)] State.reset)) (fun t => t.st == 2 && t.dt == 0 && soundOn t) = true := by
  decide

/-- V49 lines 4 and 5: past the memory without a flag or a fault, and mod 65536. -/
theorem test_addI :
    (gives (exec (.addI 2) ((withV [(2, 6)] State.reset).setI 0xFFF)) (fun t => t.i == 0x1005 && t.getV 15 == 0) &&
      gives (exec (.addI 2) ((withV [(2, 2)] State.reset).setI 0xFFFF)) (fun t => t.i == 1)) = true := by
  decide

/-- V49 line 7. -/
theorem test_ldFont :
    gives (exec (.ldFont 2) (withV [(2, 0x0F)] State.reset)) (fun t => t.i == 0x004B && t.pc == 0x202) = true := by
  decide

/-- V49 line 9. -/
theorem test_ldFont_invalid_digit :
    latches (exec (.ldFont 2) (withV [(2, 0x10)] State.reset)) (.invalidDigit 16) 0x200 (some 0xF229) = true := by
  decide

/-- V46 line 5. -/
theorem test_ldBcd :
    gives (exec (.ldBcd 0) ((withV [(0, 156)] State.reset).setI 0x300))
      (fun t => t.byteAt 0x300 == 1 && t.byteAt 0x301 == 5 && t.byteAt 0x302 == 6 && t.i == 0x300) = true := by
  decide

/-- V46, faults. -/
theorem test_ldBcd_out_of_memory :
    (latches (exec (.ldBcd 0) (State.reset.setI 0xFFE)) (.outOfMemoryAccess 4096) 0x200 (some 0xF033) &&
      latches (exec (.ldBcd 0) (State.reset.setI 0x1003)) (.outOfMemoryAccess 0x1003) 0x200 (some 0xF033)) = true := by
  decide

/-- V45 line 1 (T6). -/
theorem test_storeRegs :
    gives (exec (.storeRegs 2) ((withV [(0, 0x11), (1, 0x22), (2, 0x33), (3, 0x44)] State.reset).setI 0x300))
      (fun t => t.byteAt 0x300 == 0x11 && t.byteAt 0x301 == 0x22 && t.byteAt 0x302 == 0x33 && t.byteAt 0x303 == 0 &&
        t.i == 0x303) = true := by
  decide

/-- V45 lines 7 and 8: the last block that fits, and the first that does not. -/
theorem test_storeRegs_edges :
    (gives (exec (.storeRegs 15) (State.reset.setI 0xFF0)) (fun t => t.i == 0x1000) &&
      latches (exec (.storeRegs 15) (State.reset.setI 0xFF1)) (.outOfMemoryAccess 4096) 0x200 (some 0xFF55)) =
      true := by
  decide

/-- V45 line 5: with `LOAD_STORE_QUIRK`, `I` stays. -/
theorem test_loadRegs :
    gives (exec (.loadRegs 2) ((withBytes 0x300 [0x0A, 0x0B, 0x0C, 0x0D] { State.reset with loadStoreQuirk := true }).setI 0x300))
      (fun t => t.getV 0 == 0x0A && t.getV 1 == 0x0B && t.getV 2 == 0x0C && t.getV 3 == 0 && t.i == 0x300) = true := by
  decide

/-- V45 line 10. -/
theorem test_loadRegs_out_of_memory :
    latches (exec (.loadRegs 0) (State.reset.setI 0x1000)) (.outOfMemoryAccess 4096) 0x200 (some 0xF065) = true := by
  decide

/-- V43 line 2: the only mask that fixes the result, whatever the draw. -/
theorem test_rnd_zero_mask : gives (exec (.rnd 3 0x00) State.reset) (fun t => t.getV 3 == 0 && t.pc == 0x202) =
      true := by
  simp [exec, execRnd, finish, gives, State.reset, State.stepPc, State.setDraws, State.setV, State.setPc, State.getV]

/-! ## Reset, timers, clock adapter, host interface -/

/-- R133: the reset state is what reset with the default configuration leaves. -/
theorem test_reset_is_the_default_reset : State.resetWith SessionConfig.default = State.reset := by decide +kernel

/-- R44, R45, T2: glyph "1" in bytes 5 to 9. -/
theorem test_reset_font : [5, 6, 7, 8, 9].map State.reset.byteAt = [0x20, 0x60, 0x20, 0x20, 0x70] := by decide

/-- V60 lines 1 and 2. -/
theorem test_tick :
    ((tick ((State.reset.setDt 2).setSt 1)).dt, (tick ((State.reset.setDt 2).setSt 1)).st, (tick State.reset).dt) =
      (1, 0, 0) := by decide

/-- V61 line 2: half a cycle credit, 3/50 of a tick. -/
theorem test_run_less_than_a_cycle :
    does (transact (.run (1 / 1000)) State.reset)
      (fun t r => t.pc == 0x200 && t.cycleCredit == 1 / 2 && t.timerCredit == 3 / 50 && decide (r = .ok)) = true := by
  decide +kernel

/-- T8, V61 line 1, on a `DT` of 9: ten cycles of `0000` and one tick. -/
theorem test_run_ten_cycles_one_tick :
    does (transact (.run (1 / 50)) (State.reset.setDt 9))
      (fun t _ => t.pc == 0x214 && t.dt == 8 && t.cycleCredit == 0 && t.timerCredit == 1 / 5) = true := by
  decide +kernel

/-- P6, V61 line 7: the fault ends the run; nine cycle credits and 6/5 timer credits remain. -/
theorem test_run_ended_by_a_fault :
    does (transact (.run (1 / 50)) (withBytes 0x200 [0x00, 0xEE] State.reset))
      (fun t r => t.pc == 0x200 && t.cycleCredit == 9 && t.timerCredit == 6 / 5 &&
        decide (r = .faulted ⟨.stackUnderflow 0x00EE, 0x200, some 0x00EE⟩)) = true := by decide +kernel

/-- R134. -/
theorem test_load :
    does (transact (.load [0xA0, 0x05]) State.reset) (fun t _ => t.byteAt 0x200 == 0xA0 && t.byteAt 0x201 == 0x05) =
      true := by decide

/-- R119, R126: a host error rejects the one transaction and latches nothing. -/
theorem test_set_key_unknown : transact (.setKey 16 true) State.reset = .rejected State.reset (.unknownKey 16) := by
  rfl

/-- R119: after a rejected key set the host tries again, in the same session. -/
theorem test_session_goes_on_after_a_rejection :
    does (transactAll [.setKey 16 true, .setKey 7 true] State.reset) (fun t _ => t.key 7 && t.fault.isNone) = true := by
  decide

/-- T8 to R128: cell number `64 * r + c`. -/
theorem test_display_cells :
    (displayCells (withLit 2 3 State.reset))[131]? = some true ∧
      (displayCells (withLit 2 3 State.reset))[130]? = some false := by decide +kernel

/-! ## Witnesses: for each statement with hypotheses, data that meet them, one for each clause -/

/-- A core whose first word is `00EE` with an empty stack: its first cycle faults. -/
def faulting : State := withBytes 0x200 [0x00, 0xEE] State.reset

/-- A core with a latched fault. -/
def latched : State := after (step faulting)

/-- A core about to draw a row of eight pixels from the last byte of memory. -/
def drawing : State := (withBytes 0xFFF [0xFF] State.reset).setI 0xFFF

/-- Data that meet every hypothesis of `DecodeOfEncodeIsTheInstruction`. -/
theorem witness_DecodeOfEncodeIsTheInstruction :
    (Instr.drw 15 14 13).wellFormed = true := by
  decide

/-- Data that meet every hypothesis of `EncodeOfDecodeIsTheWord`. -/
theorem witness_EncodeOfDecodeIsTheWord :
    decodeWord 0x912F = .ok (.sneReg 1 2 15) := by
  decide

/-- Data that meet every hypothesis of `FetchIsBigEndian`. -/
theorem witness_FetchIsBigEndian :
    ((State.reset.setPc 0xFFE).pc.toNat ≤ 4094) := by
  decide

/-- Data that meet every hypothesis of `FetchAndDecodeFaultsAreTaken`, clause `first`. -/
theorem witness_FetchAndDecodeFaultsAreTaken_first :
    (State.reset.setPc 0x1000).fault = none ∧ (State.reset.setPc 0x1000).pc.toNat > 4095 := by
  decide

/-- Data that meet every hypothesis of `FetchAndDecodeFaultsAreTaken`, clause `second`. -/
theorem witness_FetchAndDecodeFaultsAreTaken_second :
    (State.reset.setPc 0xFFF).fault = none ∧ (State.reset.setPc 0xFFF).pc.toNat = 4095 := by
  decide

/-- Data that meet every hypothesis of `FetchAndDecodeFaultsAreTaken`, clause `decode`. -/
theorem witness_FetchAndDecodeFaultsAreTaken_decode :
    ∃ s : State, s.fault = none ∧ s.pc.toNat ≤ 4094 ∧ ∀ r ∈ opcodeMap, r.covers s.wordAtPc = false := by
  exact ⟨(withBytes 0xFFE [0xFF, 0xFF] State.reset).setPc 0xFFE, by decide⟩

/-- Data that meet every hypothesis of `StepRunsTheDecodedInstruction`. -/
theorem witness_StepRunsTheDecodedInstruction :
    ∃ s : State, s.fault = none ∧ s.pc.toNat ≤ 4094 ∧ (Instr.ldI 5).wellFormed = true ∧
      decodeBytes [s.byteAt s.pc.toNat, s.byteAt (s.pc.toNat + 1)] = .ok (.ldI 5, []) := by
  exact ⟨withBytes 0x200 [0xA0, 0x05] State.reset, by decide⟩

/-- Data that meet every hypothesis of `PlacedWordIsRun`. -/
theorem witness_PlacedWordIsRun :
    State.reset.fault = none ∧ State.reset.mem.wf = true ∧ State.reset.pc.toNat ≤ 4094 ∧
      decodeTableWord 16 0xD125 = some (.drw 1 2 5) := by
  decide

/-- Data that meet every hypothesis of `LatchedCoreDoesNothingUntilReset`. -/
theorem witness_LatchedCoreDoesNothingUntilReset :
    latched.fault = some ⟨.stackUnderflow 0x00EE, 0x200, some 0x00EE⟩ ∧ (0 : Rat) ≤ 1 / 50 ∧
      (∃ t reply, transact (.reset .default) latched = .done t reply) ∧
      ∃ t reply, transact (.run 1) latched = .done t reply := by
  exact ⟨by decide, by decide +kernel, ⟨latched.restart .default, .ok, by
    simp only [transact, resetCore, test_default_configuration_is_wellFormed, if_true]⟩, ⟨latched, _, rfl⟩⟩

/-- Data that meet every hypothesis of `FaultingCycleChangesNothingElse`. -/
theorem witness_FaultingCycleChangesNothingElse :
    ∃ t : State, faulting.fault = none ∧ step faulting.payCycle = .next t ∧
      t.fault = some ⟨.stackUnderflow 0x00EE, 0x200, some 0x00EE⟩ := by
  exact ⟨after (step faulting.payCycle), by decide, rfl, by decide +kernel⟩

/-- Data that meet every hypothesis of `CycleFaultsExactlyAsTabled`, clause `fault`. -/
theorem witness_CycleFaultsExactlyAsTabled_fault :
    faulting.fault = none ∧ faulting.sp.toNat ≤ 16 ∧ faulting.cycleFault = some (.stackUnderflow 0x00EE) := by
  decide

/-- Data that meet every hypothesis of `CycleFaultsExactlyAsTabled`, clause `none`. -/
theorem witness_CycleFaultsExactlyAsTabled_none :
    (faulting.setSp 16).fault = none ∧ (faulting.setSp 16).sp.toNat ≤ 16 ∧ (faulting.setSp 16).cycleFault = none := by
  decide

/-- Data that meet every hypothesis of `ExecuteStageFaults`, clause `fault`. -/
theorem witness_ExecuteStageFaults_fault :
    (State.reset.setSp 16).sp.toNat ≤ 16 ∧
      (Instr.call 0x300).faultWhen (State.reset.setSp 16) = some (.stackOverflow 0x2300) := by
  decide

/-- Data that meet every hypothesis of `ExecuteStageFaults`, clause `none`. -/
theorem witness_ExecuteStageFaults_none :
    (State.reset.setSp 15).sp.toNat ≤ 16 ∧ (Instr.call 0x300).faultWhen (State.reset.setSp 15) = none := by
  decide

/-- Data that meet every hypothesis of `JpSetsPcOnly`. -/
theorem witness_JpSetsPcOnly :
    State.reset.pc.toNat = (0x200 : Addr).toNat := by
  decide

/-- Data that meet every hypothesis of `CallPushesItsOwnAddress`. -/
theorem witness_CallPushesItsOwnAddress :
    (State.reset.setSp 15).sp.toNat < 16 ∧ (State.reset.setSp 16).sp.toNat = 16 := by
  decide

/-- Data that meet every hypothesis of `RetPopsAndAddsTwo`, clause `pop`. -/
theorem witness_RetPopsAndAddsTwo_pop :
    (0 < (State.reset.setSp 1).sp.toNat ∧ (State.reset.setSp 1).sp.toNat ≤ 16) ∧
      0 < (State.reset.setSp 16).sp.toNat ∧ (State.reset.setSp 16).sp.toNat ≤ 16 := by
  decide

/-- Data that meet every hypothesis of `RetPopsAndAddsTwo`, clause `empty`. -/
theorem witness_RetPopsAndAddsTwo_empty :
    State.reset.sp.toNat = 0 := by
  decide

/-- Data that meet every hypothesis of `CallThenReturn`. -/
theorem witness_CallThenReturn :
    ∃ t, (State.reset.setSp 15).sp.toNat < 16 ∧ exec (.call 0x300) (State.reset.setSp 15) = .next t := by
  exact ⟨_, by decide, rfl⟩

/-- Data that meet every hypothesis of `JpV0ChecksItsTarget`. -/
theorem witness_JpV0ChecksItsTarget :
    (0xF00 : Addr).toNat + ((withV [(0, 0xFF)] State.reset).getV 0).toNat ≤ 4095 ∧
      (0xF01 : Addr).toNat + ((withV [(0, 0xFF)] State.reset).getV 0).toNat > 4095 := by
  decide

/-- Data that meet every hypothesis of `KeySkips`. -/
theorem witness_KeySkips :
    ((withV [(4, 15)] State.reset).getV 4).toNat = (15 : Reg).val := by
  decide

/-- Data that meet every hypothesis of `AddSetsCarry`. -/
theorem witness_AddSetsCarry :
    (1 : Reg) ≠ regF ∧ (2 : Reg) ≠ 1 ∧ (2 : Reg) ≠ regF := by
  decide

/-- Data that meet every hypothesis of `ShiftsReportTheBitShiftedOut`. -/
theorem witness_ShiftsReportTheBitShiftedOut :
    ∃ src : Byte, src = (if State.reset.shiftQuirk = true then State.reset.getV 1 else State.reset.getV 2) ∧
      (1 : Reg) ≠ regF := by
  exact ⟨_, rfl, by decide⟩

/-- Data that meet every hypothesis of `DrawTogglesCoveredCells`, clause `bound`. -/
theorem witness_DrawTogglesCoveredCells_bound :
    drawing.i.toNat + (1 : Nibble).toNat ≤ 4096 ∧ (State.reset.setI 0x1000).i.toNat + (0 : Nibble).toNat ≤ 4096 := by
  decide

/-- Data that meet every hypothesis of `DrawTogglesCoveredCells`, clause `collision`. -/
theorem witness_DrawTogglesCoveredCells_collision :
    ∃ r c, spriteCovers (withLit 0 3 drawing) 0 1 1 r c ∧ (withLit 0 3 drawing).display.cell r c = true := by
  exact ⟨0, 3, ⟨0, 3, by decide, by decide, by decide, by decide⟩, by decide⟩

/-- Data that meet every hypothesis of `DrawTogglesCoveredCells`, clause `none`. -/
theorem witness_DrawTogglesCoveredCells_none :
    ¬ ∃ r c, spriteCovers drawing 0 1 1 r c ∧ drawing.display.cell r c = true := by
  rintro ⟨r, c, -, h⟩
  have hd : drawing.display = Vector.replicate 32 (Vector.replicate 64 false) := rfl
  simp [Display.cell, hd] at h

/-- Data that meet every hypothesis of `DrawTwiceRestores`. -/
theorem witness_DrawTwiceRestores :
    ∃ t u, drawing.i.toNat + (1 : Nibble).toNat ≤ 4096 ∧ exec (.drw 0 1 1) drawing = .next t ∧
      t.getV 0 = drawing.getV 0 ∧ t.getV 1 = drawing.getV 1 ∧ exec (.drw 0 1 1) t = .next u := by
  exact ⟨after (exec (.drw 0 1 1) drawing), after (exec (.drw 0 1 1) (after (exec (.drw 0 1 1) drawing))), by decide,
    rfl, by decide +kernel, by decide +kernel, rfl⟩

/-- Data that meet every hypothesis of `StoreMovesTheBlock`. -/
theorem witness_StoreMovesTheBlock :
    (State.reset.setI 0xFF0).mem.wf = true ∧ (State.reset.setI 0xFF0).i.toNat + (15 : Reg).val ≤ 4095 := by
  decide

/-- Data that meet every hypothesis of `LoadMovesTheBlock`. -/
theorem witness_LoadMovesTheBlock :
    (State.reset.setI 0xFF0).i.toNat + (15 : Reg).val ≤ 4095 := by
  decide

/-- Data that meet every hypothesis of `BcdStoresTheDigits`. -/
theorem witness_BcdStoresTheDigits :
    (State.reset.setI 0xFFD).mem.wf = true ∧ (State.reset.setI 0xFFD).i.toNat ≤ 4093 ∧
      (State.reset.setI 0xFFE).i.toNat > 4093 := by
  decide

/-- Data that meet every hypothesis of `StoreIsSeenByTheNextFetch`. -/
theorem witness_StoreIsSeenByTheNextFetch :
    ∃ t, (State.reset.setI 0x202).mem.wf = true ∧ (State.reset.setI 0x202).i.toNat + (1 : Reg).val ≤ 4095 ∧
      exec (.storeRegs 1) (State.reset.setI 0x202) = .next t ∧ (1 : Reg).val = (0 : Reg).val + 1 ∧ (1 : Reg) ≤ 1 ∧
      t.pc.toNat = (State.reset.setI 0x202).i.toNat + (0 : Reg).val := by
  exact ⟨after (exec (.storeRegs 1) (State.reset.setI 0x202)), by decide, by decide, rfl, by decide, by decide,
    by decide⟩

/-- Data that meet every hypothesis of `KeyWaitTakesTheLowestKey`, clause `down`. -/
theorem witness_KeyWaitTakesTheLowestKey_down :
    (State.reset.setKeyLevel 15 true).key 15 = true ∧
      ∀ j : Reg, j < 15 → (State.reset.setKeyLevel 15 true).key j = false := by
  decide

/-- Data that meet every hypothesis of `KeyWaitTakesTheLowestKey`, clause `none`. -/
theorem witness_KeyWaitTakesTheLowestKey_none :
    ∀ k : Reg, State.reset.key k = false := by
  decide

/-- Data that meet every hypothesis of `StalledKeyWaitOnlySpendsCredit`. -/
theorem witness_StalledKeyWaitOnlySpendsCredit :
    (withBytes 0x200 [0xF3, 0x0A] State.reset).fault = none ∧
      fetchDecode (withBytes 0x200 [0xF3, 0x0A] State.reset) = .ok (.ldKey 3) ∧
      ∀ k : Reg, (withBytes 0x200 [0xF3, 0x0A] State.reset).key k = false := by
  decide

/-- Data that meet every hypothesis of `GlyphAddress`. -/
theorem witness_GlyphAddress :
    ((withV [(2, 15)] State.reset).getV 2).toNat ≤ 15 ∧ ((withV [(2, 16)] State.reset).getV 2).toNat > 15 := by
  decide

/-- Data that meet every hypothesis of `FrameOfRegistersAndIndex`. -/
theorem witness_FrameOfRegistersAndIndex :
    ∃ t, exec (.addReg 1 2) State.reset = .next t ∧ (Instr.addReg 1 2).mayWriteV 3 = false ∧
      (Instr.addReg 1 2).mayWriteI State.reset = false := by
  exact ⟨_, rfl, by decide, by decide⟩

/-- Data that meet every hypothesis of `FrameOfStackAndTimers`. -/
theorem witness_FrameOfStackAndTimers :
    ∃ t, exec (.call 0x300) State.reset = .next t ∧ (Instr.call 0x300).mayWriteStack State.reset 1 = false ∧
      (Instr.call 0x300).mayWriteDt = false ∧ (Instr.call 0x300).mayWriteSt = false ∧
      (Instr.nop).mayWriteSp = false := by
  exact ⟨_, rfl, by decide, by decide, by decide, by decide⟩

/-- Data that meet every hypothesis of `FrameOfMemoryAndDisplay`. -/
theorem witness_FrameOfMemoryAndDisplay :
    ∃ t, State.reset.mem.wf = true ∧ exec (.ldBcd 0) State.reset = .next t ∧
      (Instr.ldBcd 0).stores State.reset 3 = false ∧ (Instr.ldBcd 0).mayWriteDisplay = false := by
  exact ⟨_, rfl, rfl, by decide, by decide⟩

/-- Data that meet every hypothesis of `FrameOfHostStateAndLatch`. -/
theorem witness_FrameOfHostStateAndLatch :
    ∃ t, exec .ret State.reset = .next t ∧ Instr.ret.takesDraw = false := by
  exact ⟨_, rfl, rfl⟩

/-- Data that meet every hypothesis of `ResetMeetsTheInvariants`. -/
theorem witness_ResetMeetsTheInvariants :
    SessionConfig.default.wellFormed = true := by
  exact test_default_configuration_is_wellFormed

/-- Data that meet every hypothesis of `StepKeepsTheInvariant`. -/
theorem witness_StepKeepsTheInvariant :
    ∃ t, State.reset.Inv ∧ step State.reset = .next t := by
  exact ⟨after (step State.reset), by unfold State.Inv; decide, rfl⟩

/-- Data that meet every hypothesis of `TransactionKeepsTheInvariants`. -/
theorem witness_TransactionKeepsTheInvariants :
    ∃ t reply, State.reset.Inv ∧ State.reset.ClockInv ∧ transact (.load [0x12, 0x00]) State.reset = .done t reply := by
  exact ⟨_, _, by unfold State.Inv; decide, by unfold State.ClockInv; decide +kernel, rfl⟩

/-- Data that meet every hypothesis of `StepAlwaysAnswersANextState`. -/
theorem witness_StepAlwaysAnswersANextState :
    (State.reset.setSp 16).Inv := by
  unfold State.Inv; decide

/-- Data that meet every hypothesis of `EqualBytesAreEqualMemory`. -/
theorem witness_EqualBytesAreEqualMemory :
    Memory.wf [(0x300, 7)] = true ∧ Memory.wf (Memory.write [] 0x300 7) = true ∧
      ∀ a, a ≤ 4095 → Memory.read [(0x300, 7)] a = (Memory.write [] 0x300 7).read a := by
  exact ⟨by decide, by decide, fun _ _ => rfl⟩

/-- Data that meet every hypothesis of `ResetStatedValues`. -/
theorem witness_ResetStatedValues :
    SessionConfig.default.wellFormed = true ∧ (80 : Nat) ≤ 80 := by
  exact ⟨test_default_configuration_is_wellFormed, by decide⟩

/-- Data that meet every hypothesis of `ResetChosenValues`. -/
theorem witness_ResetChosenValues :
    { SessionConfig.default with shiftQuirk := true }.wellFormed = true := by
  decide +kernel

/-- Data that meet every hypothesis of `LoadPlacesTheImage`, clause `fits`. -/
theorem witness_LoadPlacesTheImage_fits :
    State.reset.mem.wf = true ∧ State.reset.session = .fresh ∧
      (List.replicate 3584 (0x12 : Byte)).length ≤ 3584 ∧ (List.replicate 3584 (0x12 : Byte))[0]? = some 0x12 := by
  exact ⟨rfl, rfl, by rw [List.length_replicate], List.getElem?_replicate_of_lt (by decide)⟩

/-- Data that meet every hypothesis of `LoadPlacesTheImage`, clause `tooLarge`. -/
theorem witness_LoadPlacesTheImage_tooLarge :
    (List.replicate 3585 (0x12 : Byte)).length > 3584 := by
  rw [List.length_replicate]; decide

/-- Data that meet every hypothesis of `LoadPlacesTheImage`, clause `again`. -/
theorem witness_LoadPlacesTheImage_again :
    (State.reset.setSession .loaded).mem.wf = true ∧ (State.reset.setSession .loaded).session ≠ .fresh := by
  decide

/-- Data that meet every hypothesis of `SetKeySetsOneLevel`. -/
theorem witness_SetKeySetsOneLevel :
    (15 : Nat) ≤ 15 ∧ (16 : Nat) > 15 := by
  decide

/-- Data that meet every hypothesis of `RejectedTransactionChangesNothing`. -/
theorem witness_RejectedTransactionChangesNothing :
    ∃ t, transact (.setKey 16 true) State.reset = .rejected t (.unknownKey 16) := by
  exact ⟨State.reset, rfl⟩

/-- Data that meet every hypothesis of `SoundFlagTransitions`, clause `transactions`. -/
theorem witness_SoundFlagTransitions_transactions :
    (∃ t reply, transact (.reset .default) State.reset = .done t reply) ∧ (∀ cfg, Transaction.soundOn ≠ .reset cfg) ∧
      (∀ elapsed, Transaction.soundOn ≠ .run elapsed) ∧ ∃ t reply, transact .soundOn State.reset = .done t reply := by
  exact ⟨⟨State.reset.restart .default, .ok, by
    simp only [transact, resetCore, test_default_configuration_is_wellFormed, if_true]⟩, by simp, by simp, ⟨_, _, rfl⟩⟩

/-- Data that meet every hypothesis of `SoundFlagTransitions`. -/
theorem witness_SoundFlagTransitions :
    ∃ t u, exec (.ldSt 3) State.reset = .next t ∧ (∀ x, Instr.nop ≠ .ldSt x) ∧ exec .nop State.reset = .next u := by
  exact ⟨_, _, rfl, by simp, rfl⟩

/-- Data that meet every hypothesis of `SubtractSetsNoBorrow`. -/
theorem witness_SubtractSetsNoBorrow :
    (14 : Reg) ≠ regF ∧ (2 : Reg) ≠ 14 ∧ (2 : Reg) ≠ regF := by
  decide

/-- Data that meet every hypothesis of `NopAdvancesPcOnly`. -/
theorem witness_NopAdvancesPcOnly :
    decodeWord 0x0000 = .ok .nop := by
  decide

/-- Data that meet every hypothesis of `RunIssuesWholeCredits`. -/
theorem witness_RunIssuesWholeCredits :
    ∃ t, (0 : Rat) ≤ 1 / 50 ∧ State.reset.ClockInv ∧ runFor (1 / 50) State.reset = .done t .ok := by
  exact ⟨afterDone (runFor (1 / 50) State.reset), by decide +kernel, by unfold State.ClockInv; decide +kernel,
    by decide +kernel⟩

/-- Data that meet every hypothesis of `RatesAreIndependentOfTheSlicing`. -/
theorem witness_RatesAreIndependentOfTheSlicing :
    ∃ n m u, 0 < State.reset.period ∧ State.reset.cycleCredit = 0 ∧ State.reset.timerCredit = 0 ∧
      (∀ d ∈ [(1 / 1000 : Rat), 1 / 50], 0 ≤ d) ∧ runSeries [1 / 1000, 1 / 50] State.reset = some (n, m, u) := by
  exact ⟨10, 1, afterDone (runFor (1 / 50) (afterDone (runFor (1 / 1000) State.reset))),
    by decide +kernel, rfl, rfl, by decide +kernel, by decide +kernel⟩

/-- Data that meet every hypothesis of `FaultEndsTheRun`. -/
theorem witness_FaultEndsTheRun :
    ∃ t, (0 : Rat) ≤ 1 / 50 ∧ faulting.fault = none ∧
      runFor (1 / 50) faulting = .done t (.faulted ⟨.stackUnderflow 0x00EE, 0x200, some 0x00EE⟩) := by
  exact ⟨afterDone (runFor (1 / 50) faulting), by decide +kernel, rfl, by decide +kernel⟩

/-- Data that meet every hypothesis of `OwnershipOfState`. -/
theorem witness_OwnershipOfState :
    ∃ t reply, transact (.load [0x12, 0x00]) State.reset = .done t reply ∧
      (∀ cfg, Transaction.load [0x12, 0x00] ≠ .reset cfg) ∧
      (∀ k down, Transaction.load [0x12, 0x00] ≠ .setKey k down) ∧
      ∀ elapsed, Transaction.load [0x12, 0x00] ≠ .run elapsed := by
  exact ⟨_, _, rfl, by simp, by simp, by simp⟩

end Sys2Proof.Tests
end

section
/-! The proofs for the state of the core (spec/10_state.md): memory as data, what an instruction writes and what it
leaves, what a run does, and the invariants of the core and of the clock adapter. -/

namespace Sys2Proof.Machine

/-! ## Memory as data -/

theorem Memory.read_cons_self (a : Nat) (w : Byte) (rest : Memory) : Memory.read ((a, w) :: rest) a = w := by
  simp [Memory.read]

theorem Memory.read_cons_of_ne (a b : Nat) (w : Byte) (rest : Memory) (h : a ≠ b) :
    Memory.read ((a, w) :: rest) b = rest.read b := by
  simp [Memory.read, h]

/-- The lowest address that a canonical memory lists is seen by a read: where another memory lists no address up to
it, the two read differently. -/
theorem Memory.read_head_ne (a : Nat) (w : Byte) (rest m : Memory) (h : Memory.wf ((a, w) :: rest) = true)
    (hm : ∀ c ∈ m, a < c.1) : Memory.read ((a, w) :: rest) a ≠ m.read a := by
  obtain ⟨-, hw, -, -⟩ := (Memory.wf_cons a w rest).mp h
  rwa [Memory.read_cons_self, Memory.read_of_lt m a hm]

/-- A canonical memory lists nothing below a bound that is below its first address. -/
theorem Memory.lt_of_lt_head (a b : Nat) (w : Byte) (rest : Memory) (h : Memory.wf ((b, w) :: rest) = true)
    (hab : a < b) : ∀ c ∈ (b, w) :: rest, a < c.1 := by
  obtain ⟨-, -, hlt, -⟩ := (Memory.wf_cons b w rest).mp h
  intro c hc
  rcases List.mem_cons.mp hc with rfl | hc
  · exact hab
  · exact hab.trans (hlt c hc)

/-- Settles O48, by induction on both lists: were the first entries at different addresses, the lower one would show
in a read. -/
theorem equalBytesAreEqualMemory : Obligations.EqualBytesAreEqualMemory := by
  unfold Obligations.EqualBytesAreEqualMemory
  intro m
  induction m with
  | nil =>
    intro m' _ hm' heq
    cases m' with
    | nil => rfl
    | cons c rest' =>
      obtain ⟨b, u⟩ := c
      obtain ⟨hb, -⟩ := (Memory.wf_cons b u rest').mp hm'
      exact absurd (heq b hb).symm (Memory.read_head_ne b u rest' [] hm' (by simp))
  | cons c rest ih =>
    intro m' hm hm' heq
    obtain ⟨a, w⟩ := c
    obtain ⟨ha, -, hlt, hrest⟩ := (Memory.wf_cons a w rest).mp hm
    cases m' with
    | nil => exact absurd (heq a ha) (Memory.read_head_ne a w rest [] hm (by simp))
    | cons c' rest' =>
      obtain ⟨b, u⟩ := c'
      obtain ⟨hb, -, hlt', hrest'⟩ := (Memory.wf_cons b u rest').mp hm'
      rcases lt_trichotomy a b with hab | rfl | hba
      · exact absurd (heq a ha) (Memory.read_head_ne a w rest _ hm (Memory.lt_of_lt_head a b u rest' hm' hab))
      · have hhead : w = u := by simpa only [Memory.read_cons_self] using heq a ha
        have htail : rest = rest' := ih rest' hrest hrest' fun d hd => by
          by_cases hda : a = d
          · subst hda
            rw [Memory.read_of_lt rest a hlt, Memory.read_of_lt rest' a hlt']
          · simpa only [Memory.read_cons_of_ne _ _ _ _ hda] using heq d hd
        rw [hhead, htail]
      · exact absurd (heq b hb).symm (Memory.read_head_ne b u rest' _ hm' (Memory.lt_of_lt_head b a w rest hm hba))

end Sys2Proof.Machine

namespace Sys2Proof

open Sys2Proof.Machine

/-! ## Everything an instruction can answer -/

/-- What an instruction that completes writes, all but `PC`. -/
def Instr.written (i : Instr) (s : State) : State :=
  match i with
  | .nop | .jp _ | .jpV0 _ | .seImm _ _ | .sneImm _ _ | .seReg _ _ | .sneReg _ _ _ | .skp _ | .sknp _ => s
  | .cls => s.setDisplay Display.clear
  | .ret => s.setSp (s.sp - 1)
  | .call _ => (s.setStackEntry s.sp.toNat s.pc).setSp (s.sp + 1)
  | .ldImm x kk => s.setV x kk
  | .addImm x kk => s.setV x (addFlagged (s.getV x) kk).result
  | .ldReg x y => s.setV x (s.getV y)
  | .orReg x y => s.setV x (s.getV x ||| s.getV y)
  | .andReg x y => s.setV x (s.getV x &&& s.getV y)
  | .xorReg x y => s.setV x (s.getV x ^^^ s.getV y)
  | .addReg x y => s.writeFlagged x (addFlagged (s.getV x) (s.getV y))
  | .subReg x y => s.writeFlagged x (subFlagged (s.getV x) (s.getV y))
  | .shr x y => s.writeFlagged x (shrFlagged (shiftSource s x y))
  | .subn x y => s.writeFlagged x (subFlagged (s.getV y) (s.getV x))
  | .shl x y => s.writeFlagged x (shlFlagged (shiftSource s x y))
  | .ldI nnn => s.setI (wideNNN nnn)
  | .rnd x kk => (s.setV x (nextDraw s &&& kk)).setDraws (s.draws + 1)
  | .drw x y n => (s.setDisplay (drawn s x y n).display).setV regF (flagOf (drawn s x y n).hit)
  | .ldFromDt x => s.setV x s.dt
  | .ldKey x => s.setV x (BitVec.ofNat 8 ((lowestKey s).getD 0).val)
  | .ldDt x => s.setDt (s.getV x)
  | .ldSt x => s.setSt (s.getV x)
  | .addI x => s.setI (s.i + wideByte (s.getV x))
  | .ldFont x => s.setI (glyphAddress (s.getV x))
  | .ldBcd x => s.setMem (Memory.writeBytes s.mem s.i.toNat (bcdDigits (s.getV x)))
  | .storeRegs x => (s.setMem (Memory.writeBytes s.mem s.i.toNat (blockBytes s x))).setI (blockIndex s x)
  | .loadRegs x => (s.setAllV (blockLoaded s x)).setI (blockIndex s x)

/-- `PC` after an instruction that completes. -/
def Instr.nextPc (i : Instr) (s : State) : Word :=
  match i with
  | .jp nnn | .call nnn => wideNNN nnn
  | .jpV0 nnn => BitVec.ofNat 16 (offsetTarget s nnn)
  | .ret => (s.stackEntry (s.sp.toNat - 1)).getD 0 + 2
  | .seImm x kk => if s.getV x == kk then s.pc + 4 else s.pc + 2
  | .sneImm x kk => if s.getV x != kk then s.pc + 4 else s.pc + 2
  | .seReg x y => if s.getV x == s.getV y then s.pc + 4 else s.pc + 2
  | .sneReg x y _ => if s.getV x != s.getV y then s.pc + 4 else s.pc + 2
  | .skp x => if s.key (Fin.ofNat 16 (s.getV x).toNat) == true then s.pc + 4 else s.pc + 2
  | .sknp x => if s.key (Fin.ofNat 16 (s.getV x).toNat) == false then s.pc + 4 else s.pc + 2
  | _ => s.pc + 2

end Sys2Proof

namespace Sys2Proof.Machine

/-- A state answers an instruction with a fault of that instruction, with the stall of the key wait, or, when the
instruction meets no fault condition (R110), with its writes and its next `PC`. -/
def Answer (i : Instr) (s t : State) : Prop :=
  (∃ c : Cause, c.ofCycle = true ∧ t = s.setFault (some ⟨c, s.pc, some (encode i)⟩)) ∨
  ((∃ x, i = .ldKey x) ∧ lowestKey s = none ∧ t = s) ∨
  (i.faultWhen s = none ∧ t = (i.written s).setPc (i.nextPc s))

section
variable {i : Instr} {s t : State}

theorem answer_of_raise {c : Cause} (hc : c.ofCycle = true) (h : raise c i s = .next t) : Answer i s t :=
  .inl ⟨c, hc, (raise_eq_next s c i t).mp h⟩

theorem answer_of_next (hf : i.faultWhen s = none)
    (h : Host.Outcome.next ((i.written s).setPc (i.nextPc s)) = (.next t : StepOutcome)) : Answer i s t :=
  .inr (.inr ⟨hf, (Host.Outcome.next.inj h).symm⟩)

theorem answer_of_finish (hf : i.faultWhen s = none) (hpc : i.nextPc s = (i.written s).pc + 2)
    (h : finish (i.written s) = .next t) : Answer i s t :=
  .inr (.inr ⟨hf, hpc ▸ (finish_eq_next _ t).mp h⟩)

/-- The instructions that check a whole access before they change anything (R95). -/
theorem answer_of_spanChecked (len : Nat) (hf : s.i.toNat + len ≤ 4096 → i.faultWhen s = none)
    (hpc : i.nextPc s = (i.written s).pc + 2)
    (h : (match spanFault s.i.toNat len with
      | some c => raise c i s
      | none => finish (i.written s)) = .next t) : Answer i s t := by
  by_cases hle : s.i.toNat + len ≤ 4096
  · rw [spanFault_of_le _ _ hle] at h
    exact answer_of_finish (hf hle) hpc h
  · rw [spanFault_of_gt _ _ (by omega)] at h
    exact answer_of_raise rfl h

/-- The skips on a key (R70, R75, R76). -/
theorem answer_of_keySkip {x : Reg} {level : Bool}
    (hf : (s.getV x).toNat ≤ 15 → i.faultWhen s = none) (hw : i.written s = s)
    (hpc : i.nextPc s = if s.key (Fin.ofNat 16 (s.getV x).toNat) == level then s.pc + 4 else s.pc + 2)
    (h : keySkip i x level s = .next t) : Answer i s t := by
  unfold keySkip at h
  cases hk : keyNumber (s.getV x) with
  | none =>
    rw [hk] at h
    exact answer_of_raise rfl h
  | some k =>
    rw [hk] at h
    have hval : (s.getV x).toNat = k.val := (keyNumber_eq_some _ k).mp hk
    have hfin : Fin.ofNat 16 (s.getV x).toNat = k := by rw [hval]; exact Fin.ofNat_val_eq_self k
    refine .inr (.inr ⟨hf (by omega), ?_⟩)
    rw [hw, hpc, hfin]
    exact (skipIf_eq_next s _ t).mp h

/-- EVERYTHING AN INSTRUCTION CAN ANSWER WITH A NEXT STATE, whatever the state. -/
theorem exec_cases (h : exec i s = .next t) : Answer i s t := by
  cases i with
  | ret =>
    simp only [exec, execRet] at h
    split at h
    · exact answer_of_raise rfl h
    · next hsp =>
      split at h
      · next entry hentry =>
        exact answer_of_next (if_neg hsp)
          (by simpa only [Instr.written, Instr.nextPc, hentry, Option.getD_some] using h)
      · simp at h
  | call nnn =>
    simp only [exec, execCall] at h
    split at h
    · exact answer_of_raise rfl h
    · exact answer_of_next (if_neg (by omega)) h
  | jp nnn => exact answer_of_next rfl h
  | jpV0 nnn =>
    simp only [exec, execJpV0] at h
    split at h
    · exact answer_of_raise rfl h
    · next hle => exact answer_of_next (if_neg hle) h
  | seImm | sneImm | seReg | sneReg => exact .inr (.inr ⟨rfl, (skipIf_eq_next s _ t).mp h⟩)
  | skp | sknp => exact answer_of_keySkip (fun hle => if_neg (by omega)) rfl rfl h
  | drw x y n => exact answer_of_spanChecked n.toNat (fun hle => if_neg (by omega)) rfl h
  | storeRegs x | loadRegs x => exact answer_of_spanChecked (x.val + 1) (fun hle => if_neg (by omega)) rfl h
  | ldBcd x => exact answer_of_spanChecked 3 (fun hle => if_neg (by omega)) rfl h
  | ldFont x =>
    simp only [exec, execLdFont] at h
    split at h
    · exact answer_of_raise rfl h
    · next hle => exact answer_of_finish (if_neg hle) rfl h
  | ldKey x =>
    simp only [exec, execLdKey] at h
    cases hk : lowestKey s with
    | none =>
      rw [hk] at h
      exact .inr (.inl ⟨⟨x, rfl⟩, hk, (Host.Outcome.next.inj h).symm⟩)
    | some k =>
      rw [hk] at h
      exact answer_of_finish rfl rfl (by simpa only [Instr.written, hk, Option.getD_some] using h)
  | _ => exact answer_of_finish rfl rfl h

end

end Sys2Proof.Machine

namespace Sys2Proof

open Sys2Proof.Machine

/-! ## What the writes of an instruction leave -/

section
variable {i : Instr} {s : State}

theorem Instr.getV_written {r : Reg} (h : i.mayWriteV r = false) : (i.written s).getV r = s.getV r := by
  cases i with
  | ldImm x | addImm x | ldReg x | orReg x | andReg x | xorReg x | rnd x | ldFromDt x | ldKey x =>
    exact State.getV_setV_of_ne s x r _ (ne_of_beq_false h)
  | addReg x | subReg x | shr x | subn x | shl x =>
    obtain ⟨hx, hF⟩ := Bool.or_eq_false_iff.mp h
    exact (State.getV_writeFlagged s x r _).trans (by rw [if_neg (ne_of_beq_false hx), if_neg (ne_of_beq_false hF)])
  | drw x y n => exact State.getV_setV_of_ne (s.setDisplay _) regF r _ (ne_of_beq_false h)
  | loadRegs x =>
    have hr : ¬ r ≤ x := of_decide_eq_false h
    simp [Instr.written, blockLoaded, hr]
  | _ => rfl

theorem Instr.i_written (h : i.mayWriteI s = false) : (i.written s).i = s.i := by
  cases i with
  | ldI | addI | ldFont => nomatch h
  | storeRegs x | loadRegs x =>
    have hquirk : s.loadStoreQuirk = true := by simpa [Instr.mayWriteI] using h
    simp [Instr.written, blockIndex, hquirk]
  | _ => rfl

theorem Instr.sp_written (h : i.mayWriteSp = false) : (i.written s).sp = s.sp := by
  cases i with
  | call | ret => nomatch h
  | _ => rfl

theorem Instr.stackEntry_written {k : Nat} (h : i.mayWriteStack s k = false) :
    (i.written s).stackEntry k = s.stackEntry k := by
  cases i with
  | call nnn =>
    have hk : s.sp.toNat ≠ k := (ne_of_beq_false h).symm
    simp [Instr.written, State.stackEntry, hk]
  | _ => rfl

theorem Instr.dt_written (h : i.mayWriteDt = false) : (i.written s).dt = s.dt := by
  cases i with
  | ldDt => nomatch h
  | _ => rfl

theorem Instr.st_written (h : i.mayWriteSt = false) : (i.written s).st = s.st := by
  cases i with
  | ldSt => nomatch h
  | _ => rfl

theorem Instr.display_written (h : i.mayWriteDisplay = false) : (i.written s).display = s.display := by
  cases i with
  | cls | drw => nomatch h
  | _ => rfl

theorem Instr.draws_written (h : i.takesDraw = false) : (i.written s).draws = s.draws := by
  cases i with
  | rnd => nomatch h
  | _ => rfl

@[simp] theorem Instr.keys_written : (i.written s).keys = s.keys := by cases i <;> rfl
@[simp] theorem Instr.loadStoreQuirk_written : (i.written s).loadStoreQuirk = s.loadStoreQuirk := by cases i <;> rfl
@[simp] theorem Instr.shiftQuirk_written : (i.written s).shiftQuirk = s.shiftQuirk := by cases i <;> rfl
@[simp] theorem Instr.wrapping_written : (i.written s).wrapping = s.wrapping := by cases i <;> rfl
@[simp] theorem Instr.period_written : (i.written s).period = s.period := by cases i <;> rfl
@[simp] theorem Instr.cycleCredit_written : (i.written s).cycleCredit = s.cycleCredit := by cases i <;> rfl
@[simp] theorem Instr.timerCredit_written : (i.written s).timerCredit = s.timerCredit := by cases i <;> rfl
@[simp] theorem Instr.session_written : (i.written s).session = s.session := by cases i <;> rfl
@[simp] theorem Instr.fault_written : (i.written s).fault = s.fault := by cases i <;> rfl

theorem Instr.sameOutside_written : s.sameOutside (i.written s) := by
  simp [State.sameOutside]

theorem length_blockBytes (x : Reg) : (blockBytes s x).length = blockLength x := by
  simp [blockBytes, blockLength]

/-- An instruction that meets no fault condition leaves the memory, or writes its stored bytes, all of them inside the
4096. -/
theorem Instr.mem_written (hf : i.faultWhen s = none) :
    (i.written s).mem = s.mem ∨
      ∃ ws : List Byte, s.i.toNat + ws.length ≤ 4096 ∧ i.storeSpan s = (s.i.toNat, ws.length) ∧
        (i.written s).mem = s.mem.writeBytes s.i.toNat ws := by
  cases i with
  | storeRegs x =>
    have hle : s.i.toNat + x.val ≤ 4095 := by simpa [Instr.faultWhen] using hf
    exact .inr ⟨blockBytes s x, by rw [length_blockBytes, blockLength]; omega,
      by rw [length_blockBytes, Instr.storeSpan], rfl⟩
  | ldBcd x =>
    have hle : s.i.toNat + 2 ≤ 4095 := by simpa [Instr.faultWhen] using hf
    exact .inr ⟨bcdDigits (s.getV x), by simp only [bcdDigits, List.length_cons, List.length_nil]; omega, rfl, rfl⟩
  | _ => exact .inl rfl

theorem Instr.wf_mem_written (hf : i.faultWhen s = none) (hm : s.mem.wf = true) : (i.written s).mem.wf = true := by
  obtain hmem | ⟨ws, hle, -, hmem⟩ := Instr.mem_written hf
  · rwa [hmem]
  · rw [hmem]
    exact Memory.wf_writeBytes s.mem s.i.toNat ws hm hle

theorem Instr.byteAt_written {a : Nat} (hf : i.faultWhen s = none) (hm : s.mem.wf = true)
    (h : i.stores s a = false) : (i.written s).byteAt a = s.byteAt a := by
  obtain hmem | ⟨ws, hle, hspan, hmem⟩ := Instr.mem_written hf
  · rw [State.byteAt, hmem, State.byteAt]
  · have ha : ¬ (s.i.toNat ≤ a ∧ a < s.i.toNat + ws.length) := by
      simpa [Instr.stores, hspan] using h
    rw [State.byteAt, hmem, Memory.read_writeBytes _ _ _ _ hm hle, if_neg ha, State.byteAt]

end

end Sys2Proof

namespace Sys2Proof.Machine

/-! ## Frames, over all instructions -/

/-- Settles O40: a fault and a stall write no register, a completed instruction those of its write set. -/
theorem frameOfRegistersAndIndex : Obligations.FrameOfRegistersAndIndex := by
  unfold Obligations.FrameOfRegistersAndIndex
  intro i s t h
  obtain ⟨c, -, rfl⟩ | ⟨-, -, rfl⟩ | ⟨-, rfl⟩ := exec_cases h
  · exact ⟨fun r _ => rfl, fun _ => rfl⟩
  · exact ⟨fun r _ => rfl, fun _ => rfl⟩
  · exact ⟨fun r hr => Instr.getV_written hr, fun hi => Instr.i_written hi⟩

/-- Settles O41, from the writes of a completed instruction. -/
theorem frameOfStackAndTimers : Obligations.FrameOfStackAndTimers := by
  unfold Obligations.FrameOfStackAndTimers
  intro i s t h
  obtain ⟨c, -, rfl⟩ | ⟨-, -, rfl⟩ | ⟨-, rfl⟩ := exec_cases h
  · exact ⟨fun _ => rfl, fun k _ => rfl, fun _ => rfl, fun _ => rfl⟩
  · exact ⟨fun _ => rfl, fun k _ => rfl, fun _ => rfl, fun _ => rfl⟩
  · exact ⟨fun hsp => Instr.sp_written hsp, fun k hk => Instr.stackEntry_written hk,
      fun hdt => Instr.dt_written hdt, fun hst => Instr.st_written hst⟩

/-- Settles O42: what a completed instruction stores lies inside the memory, so its writes read as written. -/
theorem frameOfMemoryAndDisplay : Obligations.FrameOfMemoryAndDisplay := by
  unfold Obligations.FrameOfMemoryAndDisplay
  intro i s t hm h
  obtain ⟨c, -, rfl⟩ | ⟨-, -, rfl⟩ | ⟨hf, rfl⟩ := exec_cases h
  · exact ⟨fun a _ => rfl, fun _ => rfl⟩
  · exact ⟨fun a _ => rfl, fun _ => rfl⟩
  · exact ⟨fun a ha => Instr.byteAt_written hf hm ha, fun hd => Instr.display_written hd⟩

/-- Settles O43: only a fault touches the latch, and it touches nothing else. -/
theorem frameOfHostStateAndLatch : Obligations.FrameOfHostStateAndLatch := by
  unfold Obligations.FrameOfHostStateAndLatch
  intro i s t h
  obtain ⟨c, -, rfl⟩ | ⟨-, -, rfl⟩ | ⟨-, rfl⟩ := exec_cases h
  · exact ⟨⟨rfl, rfl, rfl, rfl, rfl, rfl, rfl, rfl⟩, fun _ => rfl, .inr ⟨c, rfl⟩⟩
  · exact ⟨⟨rfl, rfl, rfl, rfl, rfl, rfl, rfl, rfl⟩, fun _ => rfl, .inl rfl⟩
  · exact ⟨Instr.sameOutside_written, fun hd => Instr.draws_written hd, .inl Instr.fault_written⟩

end Sys2Proof.Machine

namespace Sys2Proof

open Sys2Proof.Machine

/-! ## Every step keeps the invariant of the core -/

section
variable {i : Instr} {s : State}

/-- A completed call has room on the stack, and a completed return takes an entry from it. -/
theorem Instr.sp_written_le (hf : i.faultWhen s = none) (hsp : s.sp.toNat ≤ 16) : (i.written s).sp.toNat ≤ 16 := by
  cases i with
  | call nnn =>
    have hne : s.sp.toNat ≠ 16 := by simpa [Instr.faultWhen] using hf
    simp only [Instr.written, State.setSp_sp]
    bv_omega
  | ret =>
    have hne : s.sp.toNat ≠ 0 := by simpa [Instr.faultWhen] using hf
    simp only [Instr.written, State.setSp_sp]
    bv_omega
  | _ => exact hsp

/-- A call pushes the address it was fetched from; a return makes no entry live. -/
theorem Instr.stack_written_le (hf : i.faultWhen s = none) (hpc : s.pc.toNat ≤ 4094) (hsp : s.sp.toNat ≤ 16)
    (hstack : ∀ k : Reg, k.val < s.sp.toNat → (s.stack[k.val]).toNat ≤ 4094) (k : Reg)
    (hk : k.val < (i.written s).sp.toNat) : ((i.written s).stack[k.val]).toNat ≤ 4094 := by
  cases i with
  | call nnn =>
    simp only [Instr.written, State.setSp_sp, State.setSp_stack, State.setStackEntry_stack] at hk ⊢
    rw [Vector.getElem_setIfInBounds]
    split
    · exact hpc
    · exact hstack k (by bv_omega)
  | ret =>
    have hne : s.sp.toNat ≠ 0 := by simpa [Instr.faultWhen] using hf
    simp only [Instr.written, State.setSp_sp] at hk
    exact hstack k (by bv_omega)
  | _ => exact hstack k hk

/-- A 12-bit target lies inside the memory. -/
theorem wideNNN_le (nnn : Addr) : (wideNNN nnn).toNat ≤ 4095 := by
  simp only [wideNNN]
  bv_omega

/-- A skip, taken or not, goes at most 4 past the address it was fetched from. -/
theorem skipTarget_le (p : Bool) (hpc : s.pc.toNat ≤ 4094) : (if p then s.pc + 4 else s.pc + 2).toNat ≤ 4098 := by
  cases p <;> simp only [Bool.false_eq_true, if_true, if_false] <;> bv_omega

/-- No instruction fetched inside the memory goes further out of it than past its last two bytes (R17). -/
theorem Instr.nextPc_le (hf : i.faultWhen s = none) (hpc : s.pc.toNat ≤ 4094) (hsp : s.sp.toNat ≤ 16)
    (hstack : ∀ k : Reg, k.val < s.sp.toNat → (s.stack[k.val]).toNat ≤ 4094) : (i.nextPc s).toNat ≤ 4098 := by
  cases i with
  | jp nnn | call nnn => exact (wideNNN_le nnn).trans (by decide)
  | jpV0 nnn =>
    have hle : offsetTarget s nnn ≤ 4095 := by simpa [Instr.faultWhen, offsetTarget] using hf
    simp only [Instr.nextPc, BitVec.toNat_ofNat]
    omega
  | ret =>
    have hne : s.sp.toNat ≠ 0 := by simpa [Instr.faultWhen] using hf
    have hlt : s.sp.toNat - 1 < 16 := by omega
    have hentry := hstack ⟨s.sp.toNat - 1, hlt⟩ (by simp only; omega)
    simp only [Instr.nextPc, State.stackEntry, Vector.getElem?_eq_getElem hlt, Option.getD_some]
    bv_omega
  | seImm | sneImm | seReg | sneReg | skp | sknp => exact skipTarget_le _ hpc
  | _ => exact skipTarget_le false hpc

end

end Sys2Proof

namespace Sys2Proof.Machine

section
variable {s t : State}

/-- A fault that a cycle can raise, latched at the present `PC`, keeps the invariant. -/
theorem State.Inv.setFault (h : s.Inv) {c : Cause} (hc : c.ofCycle = true) (op : Option Word) :
    (s.setFault (some ⟨c, s.pc, op⟩)).Inv := by
  obtain ⟨hsp, hpc, hstack, hmem, -⟩ := h
  exact ⟨hsp, hpc, hstack, hmem, by simp [State.latchOk, hc]⟩

/-- A completed instruction of a running core keeps the invariant. -/
theorem State.Inv.completed {i : Instr} (h : s.Inv) (hrun : s.fault = none) (hpc : s.pc.toNat ≤ 4094)
    (hf : i.faultWhen s = none) : ((i.written s).setPc (i.nextPc s)).Inv := by
  obtain ⟨hsp, -, hstack, hmem, -⟩ := h
  exact ⟨Instr.sp_written_le hf hsp, Instr.nextPc_le hf hpc hsp hstack, Instr.stack_written_le hf hpc hsp hstack,
    Instr.wf_mem_written hf hmem, by simp [State.latchOk, hrun]⟩

/-- Only `ImageTooLarge` is no fault of a cycle, and no fetch or decode raises it. -/
theorem ofCycle_of_fetchDecode {c : Cause} {op : Option Word} (h : fetchDecode s = .error (c, op)) :
    c.ofCycle = true := by
  obtain ⟨hfetch, -⟩ | ⟨op', -, -, rfl, -⟩ := (fetchDecode_eq_error s c op).mp h
  · obtain ⟨-, rfl⟩ := (fetch_eq_error s c).mp hfetch
    rfl
  · rfl

/-- An instruction that was fetched was fetched from inside the memory. -/
theorem pc_le_of_fetchDecode {i : Instr} (h : fetchDecode s = .ok i) : s.pc.toNat ≤ 4094 := by
  obtain ⟨op, hfetch, -⟩ := (fetchDecode_eq_ok s i).mp h
  exact ((fetch_eq_ok s op).mp hfetch).1

theorem State.Inv.of_step (h : s.Inv) (hstep : step s = .next t) : t.Inv := by
  obtain ⟨-, rfl⟩ | ⟨-, c, op, herr, rfl⟩ | ⟨hrun, i, hok, hexec⟩ := step_cases s t hstep
  · exact h
  · exact h.setFault (ofCycle_of_fetchDecode herr) op
  · obtain ⟨c, hc, rfl⟩ | ⟨-, -, rfl⟩ | ⟨hf, rfl⟩ := exec_cases hexec
    · exact h.setFault hc _
    · exact h
    · exact h.completed hrun (pc_le_of_fetchDecode hok) hf

end

/-- Settles O45: a latched step changes nothing, a fault is latched at the present `PC`, and a completed instruction
was fetched from inside the memory. -/
theorem stepKeepsTheInvariant : Obligations.StepKeepsTheInvariant := by
  unfold Obligations.StepKeepsTheInvariant
  intro s t h hstep
  exact h.of_step hstep

end Sys2Proof.Machine

namespace Sys2Proof.Machine

section
variable {s t u : State}

/-! ## Reset -/

theorem State.Inv.of_reset (hsp : s.sp = 0) (hpc : s.pc = 0x200) (hm : s.mem.wf = true) (hrun : s.fault = none) :
    s.Inv := by
  simp [State.Inv, State.latchOk, hsp, hpc, hm, hrun]

theorem State.ClockInv.of_reset (hp : 0 < s.period) (hc : s.cycleCredit = 0) (ht : s.timerCredit = 0) :
    s.ClockInv := by
  simp [State.ClockInv, hp, hc, ht]

theorem period_pos_of_wellFormed {cfg : SessionConfig} (h : cfg.wellFormed = true) : 0 < cfg.period := by
  obtain ⟨hp, -⟩ := Bool.and_eq_true_iff.mp h
  exact of_decide_eq_true hp

/-- Settles O44: with `SP` 0 no stack entry is live, and the memory after reset is canonical. -/
theorem resetMeetsTheInvariants : Obligations.ResetMeetsTheInvariants := by
  unfold Obligations.ResetMeetsTheInvariants
  refine ⟨.of_reset rfl rfl rfl rfl, .of_reset (by decide +kernel) rfl rfl, fun cfg hcfg => ⟨?_, ?_⟩⟩
  · exact .of_reset rfl rfl (by simp) rfl
  · exact .of_reset (period_pos_of_wellFormed hcfg) rfl rfl

/-! ## What a run does -/

theorem State.sameOutside.refl (s : State) : s.sameOutside s := ⟨rfl, rfl, rfl, rfl, rfl, rfl, rfl, rfl⟩

/-- No cycle changes the keys, the configuration, the credits or the session. -/
theorem sameOutside_of_step (h : step s = .next t) : s.sameOutside t := by
  obtain ⟨-, rfl⟩ | ⟨-, c, op, -, rfl⟩ | ⟨-, i, -, hexec⟩ := step_cases s t h
  · exact .refl _
  · exact .refl s
  · exact (frameOfHostStateAndLatch i s t hexec).1

/-- One more paid cycle latches a fault and ends the run's cycles, or the others follow (R123, R125). -/
theorem runCycles_succ {n : Nat} (h : runCycles (n + 1) s = .next t) :
    ∃ u, step s.payCycle = .next u ∧ ((u.fault ≠ none ∧ t = u) ∨ (u.fault = none ∧ runCycles n u = .next t)) := by
  simp only [runCycles] at h
  cases hstep : step s.payCycle with
  | next u =>
    rw [hstep] at h
    refine ⟨u, rfl, ?_⟩
    cases hf : u.fault with
    | none => exact .inr ⟨rfl, by simpa [hf] using h⟩
    | some r => exact .inl ⟨by simp, by simpa [hf] using h.symm⟩
  | fault f => simp [hstep] at h
  | refused r => simp [hstep] at h

/-- The cycles of a run keep what no cycle changes but for the credits paid: one for each cycle issued, and all of them
issued when none latches a fault. -/
theorem runCycles_sameOutside {n : Nat} (h : runCycles n s = .next t) :
    ∃ k : Nat, k ≤ n ∧ (t.fault = none → k = n) ∧
      (s.setCredits (s.cycleCredit - k) s.timerCredit).sameOutside t := by
  induction n generalizing s with
  | zero =>
    obtain rfl : s = t := by simpa [runCycles] using h
    exact ⟨0, le_rfl, fun _ => rfl, by simp [State.sameOutside]⟩
  | succ n ih =>
    obtain ⟨u, hstep, hend⟩ := runCycles_succ h
    have hpaid : (s.setCredits (s.cycleCredit - 1) s.timerCredit).sameOutside u := sameOutside_of_step hstep
    obtain ⟨hfault, rfl⟩ | ⟨-, hrest⟩ := hend
    · exact ⟨1, by omega, fun hf => absurd hf hfault, by simpa using hpaid⟩
    · obtain ⟨k, hk, hall, hout⟩ := ih hrest
      refine ⟨k + 1, by omega, fun hf => by rw [hall hf], ?_⟩
      simp_all [State.sameOutside, sub_sub, add_comm]

theorem State.Inv.of_runCycles {n : Nat} (hs : s.Inv) (h : runCycles n s = .next t) : t.Inv := by
  induction n generalizing s with
  | zero =>
    obtain rfl : s = t := by simpa [runCycles] using h
    exact hs
  | succ n ih =>
    obtain ⟨u, hstep, hend⟩ := runCycles_succ h
    have hpaid : s.payCycle.Inv := hs
    obtain ⟨-, rfl⟩ | ⟨-, hrest⟩ := hend
    · exact hpaid.of_step hstep
    · exact ih (hpaid.of_step hstep) hrest

/-- The end of a run: no tick after a fault, else the whole timer credits. -/
theorem finishRun_eq_done {reply : Reply} (h : finishRun s = .done t reply) :
    (s.fault ≠ none ∧ t = s) ∨ (s.fault = none ∧ t = runTicks (wholeCredits s.timerCredit) s) := by
  unfold finishRun at h
  split at h
  · next r hf => exact .inl ⟨by simp [hf], (TransactionOutcome.done.inj h).1.symm⟩
  · next hf => exact .inr ⟨hf, (TransactionOutcome.done.inj h).1.symm⟩

/-- A run that takes place finds a fault latched and changes nothing, or issues its cycles and then its ticks. -/
theorem runFor_eq_done {elapsed : Rat} {reply : Reply} (h : runFor elapsed s = .done t reply) :
    (s.fault ≠ none ∧ t = s) ∨
      (0 ≤ elapsed ∧ s.fault = none ∧
        ∃ u, runCycles (issuedCycles elapsed s) ((s.accrue elapsed).setSession .started) = .next u ∧
          finishRun u = .done t reply) := by
  unfold runFor at h
  split at h
  · next hok =>
    split at h
    · next r hf => exact .inl ⟨by simp [hf], (TransactionOutcome.done.inj h).1.symm⟩
    · next hf =>
      split at h
      · next u hu => exact .inr ⟨of_decide_eq_true hok, hf, u, hu, h⟩
      · simp at h
      · simp at h
  · simp at h

/-- The cycles of a run leave the keys and the configuration, and pay from the credits grown by the elapsed time. -/
theorem runFor_cycles {elapsed : Rat}
    (h : runCycles (issuedCycles elapsed s) ((s.accrue elapsed).setSession .started) = .next u) :
    (u.keys = s.keys ∧ u.loadStoreQuirk = s.loadStoreQuirk ∧ u.shiftQuirk = s.shiftQuirk ∧ u.wrapping = s.wrapping ∧
      u.period = s.period) ∧
    u.timerCredit = s.timerCredit + elapsed * 60 ∧
    ∃ k : Nat, k ≤ issuedCycles elapsed s ∧ (u.fault = none → k = issuedCycles elapsed s) ∧
      u.cycleCredit = s.cycleCredit + elapsed / s.period - k := by
  obtain ⟨k, hk, hall, hkeys, hls, hsh, hwr, hp, hcycle, htimer, -⟩ := runCycles_sameOutside h
  exact ⟨⟨hkeys, hls, hsh, hwr, hp⟩, htimer, k, hk, hall, hcycle⟩

theorem State.Inv.of_runFor {elapsed : Rat} {reply : Reply} (hs : s.Inv) (h : runFor elapsed s = .done t reply) :
    t.Inv := by
  obtain ⟨-, rfl⟩ | ⟨-, -, u, hcycles, hfinish⟩ := runFor_eq_done h
  · exact hs
  · have hstart : ((s.accrue elapsed).setSession .started).Inv := hs
    have hu : u.Inv := hstart.of_runCycles hcycles
    obtain ⟨-, rfl⟩ | ⟨-, rfl⟩ := finishRun_eq_done hfinish
    · exact hu
    · rw [runTicks_eq]
      exact hu

/-- A run takes whole credits and leaves the fractions (R123), unless a fault cuts it short. -/
theorem State.ClockInv.of_runFor {elapsed : Rat} {reply : Reply} (hs : s.ClockInv)
    (h : runFor elapsed s = .done t reply) : t.ClockInv := by
  obtain ⟨-, rfl⟩ | ⟨he, -, u, hcycles, hfinish⟩ := runFor_eq_done h
  · exact hs
  obtain ⟨hp, hc, ht, -⟩ := hs
  obtain ⟨⟨-, -, -, -, hup⟩, hut, k, hk, hall, huc⟩ := runFor_cycles hcycles
  have hcycle0 : 0 ≤ s.cycleCredit + elapsed / s.period := add_nonneg hc (div_nonneg he hp.le)
  have htimer0 : 0 ≤ u.timerCredit := hut ▸ by positivity
  obtain ⟨hcl, hcu⟩ := wholeCredits_spec _ hcycle0
  obtain ⟨htl, htu⟩ := wholeCredits_spec _ htimer0
  have hkq : (k : Rat) ≤ issuedCycles elapsed s := by exact_mod_cast hk
  have hup' : 0 < u.period := hup ▸ hp
  have huc0 : 0 ≤ u.cycleCredit := by
    rw [huc]; exact sub_nonneg.mpr (hkq.trans hcl)
  obtain ⟨hfault, rfl⟩ | ⟨hf, rfl⟩ := finishRun_eq_done hfinish
  · exact ⟨hup', huc0, htimer0, fun hrun => absurd hrun hfault⟩
  · rw [runTicks_eq]
    have huc1 : u.cycleCredit < 1 := by
      rw [huc, hall hf]; exact sub_lt_iff_lt_add'.mpr hcu
    exact ⟨hup', huc0, sub_nonneg.mpr htl, fun _ => ⟨huc1, sub_lt_iff_lt_add'.mpr htu⟩⟩

/-- A run leaves the keys and the configuration. -/
theorem runFor_keeps {elapsed : Rat} {reply : Reply} (h : runFor elapsed s = .done t reply) :
    t.keys = s.keys ∧ t.loadStoreQuirk = s.loadStoreQuirk ∧ t.shiftQuirk = s.shiftQuirk ∧ t.wrapping = s.wrapping ∧
      t.period = s.period := by
  obtain ⟨-, rfl⟩ | ⟨-, -, u, hcycles, hfinish⟩ := runFor_eq_done h
  · exact ⟨rfl, rfl, rfl, rfl, rfl⟩
  obtain ⟨hkept, -⟩ := runFor_cycles hcycles
  obtain ⟨-, rfl⟩ | ⟨-, rfl⟩ := finishRun_eq_done hfinish
  · exact hkept
  · rw [runTicks_eq]
    exact hkept

/-! ## What the other transactions do -/

theorem resetCore_eq_done {cfg : SessionConfig} {reply : Reply} (h : resetCore cfg s = .done t reply) :
    cfg.wellFormed = true ∧ t = s.restart cfg := by
  unfold resetCore at h
  split at h
  · next hok => exact ⟨hok, (TransactionOutcome.done.inj h).1.symm⟩
  · simp at h

theorem loadImage_eq_done {image : List Byte} {reply : Reply} (h : loadImage image s = .done t reply) :
    0x200 + image.length ≤ 4096 ∧ t = (s.setMem (Memory.writeBytes s.mem 0x200 image)).setSession .loaded := by
  unfold loadImage at h
  split at h
  · split at h
    · next hfits => exact ⟨of_decide_eq_true hfits, (TransactionOutcome.done.inj h).1.symm⟩
    · simp at h
  · simp at h

theorem setKey_eq_done {k : Nat} {down : Bool} {reply : Reply} (h : setKey k down s = .done t reply) :
    t = s.setKeyLevel (Fin.ofNat 16 k) down := by
  unfold setKey at h
  split at h
  · exact (TransactionOutcome.done.inj h).1.symm
  · simp at h

end

/-! ## The transactions -/

/-- Settles O46, transaction by transaction; a run by induction over its cycles. -/
theorem transactionKeepsTheInvariants : Obligations.TransactionKeepsTheInvariants := by
  unfold Obligations.TransactionKeepsTheInvariants
  intro a s t reply hs hclock h
  cases a with
  | reset cfg =>
    obtain ⟨hcfg, rfl⟩ := resetCore_eq_done h
    exact ⟨.of_reset rfl rfl (by simp) rfl, .of_reset (period_pos_of_wellFormed hcfg) rfl rfl⟩
  | load image =>
    obtain ⟨hfits, rfl⟩ := loadImage_eq_done h
    obtain ⟨hsp, hpc, hstack, hmem, hlatch⟩ := hs
    exact ⟨⟨hsp, hpc, hstack, Memory.wf_writeBytes s.mem 0x200 image hmem hfits, hlatch⟩, hclock⟩
  | setKey k down =>
    obtain rfl := setKey_eq_done h
    exact ⟨hs, hclock⟩
  | run elapsed => exact ⟨hs.of_runFor h, hclock.of_runFor h⟩
  | display | soundOn =>
    obtain ⟨rfl, -⟩ := TransactionOutcome.done.inj h
    exact ⟨hs, hclock⟩

/-- Settles O59, transaction by transaction. -/
theorem ownershipOfState : Obligations.OwnershipOfState := by
  unfold Obligations.OwnershipOfState
  intro a s t reply h hreset
  cases a with
  | reset cfg => exact absurd rfl (hreset cfg)
  | load image =>
    obtain ⟨-, rfl⟩ := loadImage_eq_done h
    exact ⟨⟨rfl, rfl, rfl, rfl⟩, fun _ => rfl, fun _ => ⟨rfl, rfl, rfl, rfl, rfl, rfl, rfl, rfl, rfl, rfl, rfl,
      fun hload => absurd rfl (hload image)⟩⟩
  | setKey k down =>
    obtain rfl := setKey_eq_done h
    exact ⟨⟨rfl, rfl, rfl, rfl⟩, fun hkey => absurd rfl (hkey k down), fun _ => ⟨rfl, rfl, rfl, rfl, rfl, rfl, rfl, rfl,
      rfl, rfl, rfl, fun _ => rfl⟩⟩
  | run elapsed =>
    obtain ⟨hkeys, hls, hsh, hwr, hp⟩ := runFor_keeps h
    exact ⟨⟨hp, hls, hsh, hwr⟩, fun _ => hkeys, fun hrun => absurd rfl (hrun elapsed)⟩
  | display | soundOn =>
    obtain ⟨rfl, -⟩ := TransactionOutcome.done.inj h
    exact ⟨⟨rfl, rfl, rfl, rfl⟩, fun _ => rfl, fun _ => ⟨rfl, rfl, rfl, rfl, rfl, rfl, rfl, rfl, rfl, rfl, rfl,
      fun _ => rfl⟩⟩

end Sys2Proof.Machine
end

section
/-! The proofs for the memory (spec/20_memory.md): the order of the two bytes of a fetched word, and what a fetch sees
of a block store. -/

namespace Sys2Proof

/-- The byte at the lower address is the high one (R38). -/
theorem toNat_opOfBytes (hi lo : Byte) : (opOfBytes hi lo).toNat = hi.toNat * 256 + lo.toNat := by
  calc (opOfBytes hi lo).toNat = hi.toNat <<< 8 ||| lo.toNat := BitVec.toNat_append hi lo
    _ = hi.toNat <<< 8 + lo.toNat := (Nat.shiftLeft_add_eq_or_of_lt lo.isLt hi.toNat).symm
    _ = hi.toNat * 256 + lo.toNat := by rw [Nat.shiftLeft_eq]

end Sys2Proof

namespace Sys2Proof.Machine

/-- Settles O6: inside the memory a fetch answers the two bytes at `PC` put together, the first one high. -/
theorem fetchIsBigEndian : Obligations.FetchIsBigEndian := by
  unfold Obligations.FetchIsBigEndian
  intro s hpc
  exact ⟨_, (fetch_eq_ok s _).mpr ⟨hpc, rfl⟩, toNat_opOfBytes _ _⟩

/-! ## What a block store leaves in the memory -/

section
variable {s t : State} {x : Reg}

theorem getElem?_blockBytes {k : Reg} (hk : k ≤ x) : (blockBytes s x)[k.val]? = some (s.getV k) := by
  have hlt : k.val < blockLength x := Nat.lt_succ_of_le hk
  simp [blockBytes, List.getElem?_take_of_lt hlt, State.getV]

/-- A block store inside the memory does not fault (R95, R96). -/
theorem exec_storeRegs_of_le (h : s.i.toNat + x.val ≤ 4095) :
    exec (.storeRegs x) s = finish ((Instr.storeRegs x).written s) := by
  have hspan : spanFault s.i.toNat (blockLength x) = none :=
    spanFault_of_le _ _ (by rw [blockLength]; omega)
  simp only [exec, execStoreRegs, hspan, Instr.written]

/-- Register `k` of a block store stands at `I + k` (R39, R96). -/
theorem byteAt_written_storeRegs {k : Reg} (hm : s.mem.wf = true) (h : s.i.toNat + x.val ≤ 4095) (hk : k ≤ x) :
    ((Instr.storeRegs x).written s).byteAt (s.i.toNat + k.val) = s.getV k := by
  have hlen : (blockBytes s x).length = x.val + 1 := length_blockBytes x
  have hkx : k.val ≤ x.val := hk
  simp only [Instr.written, State.byteAt_setI, State.byteAt_setMem]
  rw [Memory.read_writeBytes _ _ _ _ hm (by omega), if_pos (by omega), Nat.add_sub_cancel_left,
    getElem?_blockBytes hk, Option.getD_some]

/-- The state that a block store inside the memory answers holds register `k` at `I + k` (R96). -/
theorem byteAt_of_exec_storeRegs {k : Reg} (hm : s.mem.wf = true) (h : s.i.toNat + x.val ≤ 4095)
    (ht : exec (.storeRegs x) s = .next t) (hk : k ≤ x) : t.byteAt (s.i.toNat + k.val) = s.getV k := by
  rw [exec_storeRegs_of_le h] at ht
  obtain rfl := (finish_eq_next _ t).mp ht
  exact byteAt_written_storeRegs hm h hk

end

/-- Settles O34: the next fetch reads the bytes at `I + k` and `I + k + 1`, where the store put the two registers. -/
theorem storeIsSeenByTheNextFetch : Obligations.StoreIsSeenByTheNextFetch := by
  unfold Obligations.StoreIsSeenByTheNextFetch
  intro x k j s t hm h ht hj hjx hpc
  have hjx' : j.val ≤ x.val := hjx
  have hkx : k ≤ x := Fin.le_def.mpr (by omega)
  have hhi : t.byteAt t.pc.toNat = s.getV k := by
    rw [hpc, byteAt_of_exec_storeRegs hm h ht hkx]
  have hlo : t.byteAt (t.pc.toNat + 1) = s.getV j := by
    rw [hpc, Nat.add_assoc, ← hj, byteAt_of_exec_storeRegs hm h ht hjx]
  refine (fetch_eq_ok t _).mpr ⟨by omega, ?_⟩
  rw [hhi, hlo]

end Sys2Proof.Machine
end

section
/-! The proofs for the encoding (spec/30_encoding.md): decoder and encoder are inverse to each other, the decoder is
the opcode map, and what one cycle does with the word it fetches. -/

namespace Sys2Proof

/-! ## The decoder reads back what the encoder wrote -/

section
variable {op : Word} {i : Instr}

theorem selectInstr_encode (i : Instr) : selectInstr (encode i) = some i := by
  cases i with
  | nop | cls | ret => rfl
  | jp | call | ldI | jpV0 | seImm | sneImm | ldImm | addImm | rnd | sneReg | drw => simp [encode, selectInstr]
  | seReg => simp [encode, selectInstr, decodeFamily5]
  | ldReg | orReg | andReg | xorReg | addReg | subReg | shr | subn | shl => simp [encode, selectInstr, decodeFamily8]
  | skp | sknp => simp [encode, encodeX_eq, selectInstr, decodeFamilyE]
  | ldFromDt | ldKey | ldDt | ldSt | addI | ldFont | ldBcd | storeRegs | loadRegs =>
    simp [encode, encodeX_eq, selectInstr, decodeFamilyF]

/-! ## The encoder writes back what the decoder read -/

theorem encodeNNN_of_family {f : Nibble} (hf : opFamily op = f) : encodeNNN f (opNNN op) = op := by
  rw [← hf, encodeNNN_fields]

theorem encodeXKK_of_family {f : Nibble} (hf : opFamily op = f) : encodeXKK f (opX op) (opKK op) = op := by
  rw [← hf, encodeXKK_fields]

theorem encodeXYN_of_family {f : Nibble} (hf : opFamily op = f) :
    encodeXYN f (opX op) (opY op) (opN op) = op := by
  rw [← hf, encodeXYN_fields]

theorem encodeXYN_of_sub {f n : Nibble} (hf : opFamily op = f) (hn : opN op = n) :
    encodeXYN f (opX op) (opY op) n = op := by
  rw [← hn, encodeXYN_of_family hf]

theorem encodeX_of_sub {f : Nibble} {low : Byte} (hf : opFamily op = f) (hlow : opKK op = low) :
    encodeX f (opX op) low = op := by
  rw [encodeX_eq, ← hlow, encodeXKK_of_family hf]

theorem encode_of_decodeFamily0 (h : decodeFamily0 op = some i) : encode i = op := by
  unfold decodeFamily0 at h
  split at h <;> cases h <;> rfl

theorem encode_of_decodeFamily5 (hf : opFamily op = 0x5) (h : decodeFamily5 op = some i) : encode i = op := by
  unfold decodeFamily5 at h
  split at h <;> cases h
  next hn => exact encodeXYN_of_sub hf hn

theorem encode_of_decodeFamily8 (hf : opFamily op = 0x8) (h : decodeFamily8 op = some i) : encode i = op := by
  unfold decodeFamily8 at h
  split at h <;> cases h
  all_goals next hn => exact encodeXYN_of_sub hf hn

theorem encode_of_decodeFamilyE (hf : opFamily op = 0xE) (h : decodeFamilyE op = some i) : encode i = op := by
  unfold decodeFamilyE at h
  split at h <;> cases h
  all_goals next hlow => exact encodeX_of_sub hf hlow

theorem encode_of_decodeFamilyF (hf : opFamily op = 0xF) (h : decodeFamilyF op = some i) : encode i = op := by
  unfold decodeFamilyF at h
  split at h <;> cases h
  all_goals next hlow => exact encodeX_of_sub hf hlow

theorem encode_of_selectInstr (h : selectInstr op = some i) : encode i = op := by
  unfold selectInstr at h
  split at h
  case h_1 => exact encode_of_decodeFamily0 h
  case h_6 hf => exact encode_of_decodeFamily5 hf h
  case h_9 hf => exact encode_of_decodeFamily8 hf h
  case h_15 hf => exact encode_of_decodeFamilyE hf h
  case h_16 hf => exact encode_of_decodeFamilyF hf h
  all_goals cases h
  case h_2 hf | h_3 hf | h_11 hf | h_12 hf => exact encodeNNN_of_family hf
  case h_4 hf | h_5 hf | h_7 hf | h_8 hf | h_13 hf => exact encodeXKK_of_family hf
  case h_10 hf | h_14 hf => exact encodeXYN_of_family hf

/-- DECODER AND ENCODER ARE INVERSE: a word decodes to exactly the instruction whose word it is. -/
theorem decodeWord_eq_ok_iff_encode : decodeWord op = .ok i ↔ encode i = op := by
  rw [decodeWord_eq_ok]
  exact ⟨encode_of_selectInstr, fun h => h ▸ selectInstr_encode i⟩

/-- Two bytes and more decode as the word of the two, and what follows is left. -/
theorem decodeBytes_eq_ok {hi lo : Byte} {rest left : List Byte} :
    decodeBytes (hi :: lo :: rest) = .ok (i, left) ↔ decodeWord (opOfBytes hi lo) = .ok i ∧ rest = left := by
  simp only [decodeBytes]
  cases decodeWord (opOfBytes hi lo) <;> simp

theorem wellFormed_eq_true (i : Instr) : i.wellFormed = true := by
  cases i <;> rfl

end

/-- Settles O1: the two bytes are put together to the word of the instruction, which decodes to it. -/
theorem decodeOfEncodeIsTheInstruction : Obligations.DecodeOfEncodeIsTheInstruction := by
  unfold Obligations.DecodeOfEncodeIsTheInstruction
  intro i rest _
  refine decodeBytes_eq_ok.mpr ⟨?_, rfl⟩
  rw [opOfBytes_high_low]
  exact decodeWord_eq_ok_iff_encode.mpr rfl

/-- Settles O2, family by family: the fields read from a word, put in their places, are the word. -/
theorem encodeOfDecodeIsTheWord : Obligations.EncodeOfDecodeIsTheWord := by
  unfold Obligations.EncodeOfDecodeIsTheWord
  intro op i h
  exact ⟨wellFormed_eq_true i, decodeWord_eq_ok_iff_encode.mp h⟩

/-! ## The decoder is the opcode map -/

section
variable {op : Word}

theorem row_covers_encode (i : Instr) : i.row.covers (encode i) = true := by
  rw [OpcodeRow.covers, beq_iff_eq]
  cases i with
  | nop | cls | ret => rfl
  | jp | call | ldI | jpV0 => exact Laws.fixed_bits_NNN _ _
  | seImm | sneImm | ldImm | addImm | rnd => exact Laws.fixed_bits_XKK _ _ _
  | sneReg | drw => exact Laws.fixed_bits_XYN _ _ _ _
  | seReg | ldReg | orReg | andReg | xorReg | addReg | subReg | shr | subn | shl => exact Laws.fixed_bits_XY _ _ _ _
  | skp | sknp | ldFromDt | ldKey | ldDt | ldSt | addI | ldFont | ldBcd | storeRegs | loadRegs =>
    exact Laws.fixed_bits_X _ _ _

theorem row_mem_opcodeMap (i : Instr) : i.row ∈ opcodeMap := by
  cases i <;> simp [opcodeMap, Instr.row]

/-- Every row of the opcode map is the row of an instruction. -/
theorem exists_row_eq {r : OpcodeRow} (hr : r ∈ opcodeMap) : ∃ j : Instr, j.row = r := by
  simp only [opcodeMap, ← List.map_append, List.mem_map] at hr
  obtain ⟨j, -, hj⟩ := hr
  exact ⟨j, hj⟩

/-- Words that agree under a mask agree in each field that the mask keeps whole. -/
theorem extractLsb'_eq_of_and_eq {w m : Word} {lo len : Nat} (h : op &&& m = w &&& m)
    (hm : m.extractLsb' lo len = BitVec.allOnes len) : op.extractLsb' lo len = w.extractLsb' lo len := by
  calc op.extractLsb' lo len = op.extractLsb' lo len &&& m.extractLsb' lo len := by rw [hm, BitVec.and_allOnes]
    _ = w.extractLsb' lo len &&& m.extractLsb' lo len := by
      rw [← BitVec.extractLsb'_and, h, BitVec.extractLsb'_and]
    _ = w.extractLsb' lo len := by rw [hm, BitVec.and_allOnes]

/-- Every row fixes the family (R54). -/
theorem opFamily_row_mask (j : Instr) : opFamily j.row.mask = 0xF := by
  cases j <;> simp [Instr.row, opFamily]

/-- A word that the row of an instruction covers selects an instruction of that row: the fixed bits of the row are
what the decoder matches on. -/
theorem exists_selectInstr_of_covers {j : Instr} (h : j.row.covers op = true) :
    ∃ i, selectInstr op = some i ∧ i.row = j.row := by
  have hmask : op &&& j.row.mask = encode j &&& j.row.mask :=
    (beq_iff_eq.mp h).trans (beq_iff_eq.mp (row_covers_encode j)).symm
  have hf : opFamily op = opFamily (encode j) := extractLsb'_eq_of_and_eq hmask (opFamily_row_mask j)
  cases j with
  | nop | cls | ret =>
    obtain rfl : op = _ := BitVec.and_allOnes.symm.trans hmask
    exact ⟨_, rfl, rfl⟩
  | jp | call | seImm | sneImm | ldImm | addImm | sneReg | ldI | jpV0 | rnd | drw =>
    simp only [encode, opFamily_encodeNNN, opFamily_encodeXKK, opFamily_encodeXYN] at hf
    simp [selectInstr, hf, Instr.row]
  | seReg =>
    have hn : opN op = opN (encode _) := extractLsb'_eq_of_and_eq (m := 0xF00F) hmask (by decide)
    simp only [encode, opFamily_encodeXYN, opN_encodeXYN] at hf hn
    simp [selectInstr, hf, decodeFamily5, hn, Instr.row]
  | ldReg | orReg | andReg | xorReg | addReg | subReg | shr | subn | shl =>
    have hn : opN op = opN (encode _) := extractLsb'_eq_of_and_eq (m := 0xF00F) hmask (by decide)
    simp only [encode, opFamily_encodeXYN, opN_encodeXYN] at hf hn
    simp [selectInstr, hf, decodeFamily8, hn, Instr.row]
  | skp | sknp =>
    have hlow : opKK op = opKK (encode _) := extractLsb'_eq_of_and_eq (m := 0xF0FF) hmask (by decide)
    simp only [encode, encodeX_eq, opFamily_encodeXKK, opKK_encodeXKK] at hf hlow
    simp [selectInstr, hf, decodeFamilyE, hlow, Instr.row]
  | ldFromDt | ldKey | ldDt | ldSt | addI | ldFont | ldBcd | storeRegs | loadRegs =>
    have hlow : opKK op = opKK (encode _) := extractLsb'_eq_of_and_eq (m := 0xF0FF) hmask (by decide)
    simp only [encode, encodeX_eq, opFamily_encodeXKK, opKK_encodeXKK] at hf hlow
    simp [selectInstr, hf, decodeFamilyF, hlow, Instr.row]

/-- The row that covers a word is the row of the instruction that the word selects. -/
theorem row_eq_of_covers {i : Instr} {r : OpcodeRow} (hi : selectInstr op = some i) (hr : r ∈ opcodeMap)
    (h : r.covers op = true) : r = i.row := by
  obtain ⟨j, rfl⟩ := exists_row_eq hr
  obtain ⟨i', hi', hrow⟩ := exists_selectInstr_of_covers h
  obtain rfl : i' = i := Option.some.inj (hi'.symm.trans hi)
  exact hrow.symm

theorem row_covers_of_selectInstr {i : Instr} (hi : selectInstr op = some i) : i.row.covers op = true :=
  encode_of_selectInstr hi ▸ row_covers_encode i

/-- A word is unknown exactly when no row of the opcode map covers it (R58). -/
theorem selectInstr_eq_none : selectInstr op = none ↔ ∀ r ∈ opcodeMap, r.covers op = false := by
  constructor
  · intro hnone r hr
    rw [← Bool.not_eq_true]
    intro hcov
    obtain ⟨j, rfl⟩ := exists_row_eq hr
    obtain ⟨i, hi, -⟩ := exists_selectInstr_of_covers hcov
    simp [hnone] at hi
  · intro h
    rw [Option.eq_none_iff_forall_ne_some]
    intro i hi
    simpa [row_covers_of_selectInstr hi] using h i.row (row_mem_opcodeMap i)

end

/-- Settles O3: the word of an instruction has the fixed bits of its row, and a word with the fixed bits of a row
selects an instruction of that row. -/
theorem decoderIsTheOpcodeMap : Obligations.DecoderIsTheOpcodeMap := by
  unfold Obligations.DecoderIsTheOpcodeMap
  intro op
  cases hsel : selectInstr op with
  | some i =>
    exact .inl ⟨i, (decodeWord_eq_ok op i).mpr hsel, row_mem_opcodeMap i, row_covers_of_selectInstr hsel,
      fun r hr h => row_eq_of_covers hsel hr h⟩
  | none => exact .inr ⟨(decodeWord_eq_error op _).mpr ⟨hsel, rfl⟩, selectInstr_eq_none.mp hsel⟩

/-! ## Written-out words -/

/-- Settles O4: each word is the encoding of its instruction. -/
theorem workedEncodingsDecode : Obligations.WorkedEncodingsDecode := by
  unfold Obligations.WorkedEncodingsDecode
  simp only [decodeBytes_eq_ok, decodeWord_eq_ok_iff_encode]
  decide

/-- Settles O5: each word is the encoding of its instruction. -/
theorem familyWordsDecode : Obligations.FamilyWordsDecode := by
  unfold Obligations.FamilyWordsDecode
  simp only [decodeWord_eq_ok_iff_encode]
  decide

end Sys2Proof

namespace Sys2Proof.Machine

/-! ## One cycle -/

section
variable {s : State} {i : Instr}

theorem step_of_latched {r : FaultRecord} (h : s.fault = some r) : step s = .next s := by
  simp only [step, h]

theorem step_of_fetchDecode_error {c : Cause} {op : Option Word} (hrun : s.fault = none)
    (h : fetchDecode s = .error (c, op)) : step s = .next (s.setFault (some ⟨c, s.pc, op⟩)) := by
  simp only [step, hrun, h, State.takeFault]

theorem step_of_fetchDecode_ok (hrun : s.fault = none) (h : fetchDecode s = .ok i) : step s = exec i s := by
  simp only [step, hrun, h]

/-- A fetch that faults is taken with no opcode (R51, R111). -/
theorem step_of_fetch_error (hrun : s.fault = none) (hpc : 4095 ≤ s.pc.toNat) :
    step s = .next (s.setFault (some ⟨.outOfMemoryAccess (max s.pc.toNat 4096), s.pc, none⟩)) :=
  step_of_fetchDecode_error hrun
    ((fetchDecode_eq_error s _ _).mpr (.inl ⟨(fetch_eq_error s _).mpr ⟨hpc, rfl⟩, rfl⟩))

theorem fetch_eq_wordAtPc (hpc : s.pc.toNat ≤ 4094) : fetch s = .ok s.wordAtPc :=
  (fetch_eq_ok s _).mpr ⟨hpc, rfl⟩

end

/-- Settles O7, fault by fault. -/
theorem fetchAndDecodeFaultsAreTaken : Obligations.FetchAndDecodeFaultsAreTaken := by
  unfold Obligations.FetchAndDecodeFaultsAreTaken
  intro s hrun
  refine ⟨fun hpc => ?_, fun hpc => ?_, fun hpc hcov => ?_⟩
  · rw [step_of_fetch_error hrun (by omega), Nat.max_eq_left (by omega)]
  · rw [step_of_fetch_error hrun (by omega), Nat.max_eq_right (by omega)]
  · refine step_of_fetchDecode_error hrun ((fetchDecode_eq_error s _ _).mpr (.inr ?_))
    exact ⟨s.wordAtPc, fetch_eq_wordAtPc hpc, selectInstr_eq_none.mpr hcov, rfl, rfl⟩

/-- Settles O8: the bytes that decode are the two that the fetch reads. -/
theorem stepRunsTheDecodedInstruction : Obligations.StepRunsTheDecodedInstruction := by
  unfold Obligations.StepRunsTheDecodedInstruction
  intro s i hrun hpc _ hdec
  obtain ⟨hword, -⟩ := decodeBytes_eq_ok.mp hdec
  exact step_of_fetchDecode_ok hrun ((fetchDecode_eq_ok s i).mpr ⟨s.wordAtPc, fetch_eq_wordAtPc hpc, hword⟩)

section
variable {s : State} {i : Instr}

theorem decodeTableWord_eq_some {n w : Nat} :
    decodeTableWord n w = some i ↔ decodeWord (BitVec.ofNat 16 (w % 2 ^ n)) = .ok i := by
  simp only [decodeTableWord, decodeBytes, opOfBytes_high_low]
  cases decodeWord (BitVec.ofNat 16 (w % 2 ^ n)) <;> simp

theorem fault_placeWord (op : Word) : (s.placeWord op).fault = s.fault := by
  unfold State.placeWord
  split <;> rfl

end

/-- Settles O9: the placed word is the one that the next fetch reads. -/
theorem placedWordIsRun : Obligations.PlacedWordIsRun := by
  unfold Obligations.PlacedWordIsRun
  intro s w i hrun hm hpc hdec
  have hfetch := fetch_placeWord s (BitVec.ofNat 16 (w % 2 ^ 16)) hm hpc
  refine step_of_fetchDecode_ok ((fault_placeWord _).trans hrun) ?_
  exact (fetchDecode_eq_ok _ i).mpr ⟨_, hfetch, decodeTableWord_eq_some.mp hdec⟩

/-! ## A step always answers -/

section
variable {s : State}

theorem keySkip_answers (i : Instr) (x : Reg) (level : Bool) : ∃ t, keySkip i x level s = .next t := by
  unfold keySkip
  split <;> exact ⟨_, rfl⟩

/-- A return pops an entry that the stack has: `SP` is 0 to 16 (R18). -/
theorem execRet_answers (hsp : s.sp.toNat ≤ 16) : ∃ t, execRet s = .next t := by
  unfold execRet
  split
  · exact ⟨_, rfl⟩
  · next hne =>
    have hentry : s.stackEntry (s.sp.toNat - 1) = some s.stack[s.sp.toNat - 1] := by
      rw [State.stackEntry, Vector.getElem?_eq_getElem (by omega)]
    rw [hentry]
    exact ⟨_, rfl⟩

/-- No instruction is refused, and none stops the model (R60). -/
theorem exec_answers (i : Instr) (hsp : s.sp.toNat ≤ 16) : ∃ t, exec i s = .next t := by
  cases i with
  | ret => exact execRet_answers hsp
  | skp | sknp => exact keySkip_answers _ _ _
  | call | jpV0 | ldFont | ldKey =>
    simp only [exec, execCall, execJpV0, execLdFont, execLdKey]
    split <;> exact ⟨_, rfl⟩
  | drw | storeRegs | loadRegs | ldBcd =>
    simp only [exec, execDrw, execStoreRegs, execLoadRegs, execLdBcd]
    split <;> exact ⟨_, rfl⟩
  | _ => exact ⟨_, rfl⟩

end

/-- Settles O47: a latched core and a fault of the fetch or the decode answer at once, and an instruction answers
because `SP` is at most 16. -/
theorem stepAlwaysAnswersANextState : Obligations.StepAlwaysAnswersANextState := by
  unfold Obligations.StepAlwaysAnswersANextState
  intro s ⟨hsp, _⟩
  cases hf : s.fault with
  | some r => exact ⟨s, step_of_latched hf⟩
  | none =>
    cases hd : fetchDecode s with
    | error p => exact ⟨_, step_of_fetchDecode_error hf hd⟩
    | ok i => rw [step_of_fetchDecode_ok hf hd]; exact exec_answers i hsp

end Sys2Proof.Machine
end

section
/-! The proofs for the flow instructions (spec/40_flow.md): where each of them goes, and what a call and a return do to
the stack. -/

namespace Sys2Proof.Machine

section
variable {s : State} {nnn : Addr}

/-! ## What each flow instruction answers -/

/-- Zero extension keeps the value of an address field (R53). -/
theorem toNat_wideNNN (nnn : Addr) : (wideNNN nnn).toNat = nnn.toNat :=
  BitVec.toNat_setWidth_of_le (by decide)

/-- The entries of the stack are 0 to 15 (R19). -/
theorem exists_stackEntry {k : Nat} (hk : k < 16) : ∃ entry, s.stackEntry k = some entry :=
  ⟨s.stack[k], Vector.getElem?_eq_getElem hk⟩

theorem exec_call_of_lt (h : s.sp.toNat < 16) :
    exec (.call nnn) s = .next (((s.setStackEntry s.sp.toNat s.pc).setSp (s.sp + 1)).setPc (wideNNN nnn)) :=
  if_neg (by omega)

theorem exec_call_of_full (h : 16 ≤ s.sp.toNat) :
    exec (.call nnn) s = raise (.stackOverflow (encode (.call nnn))) (.call nnn) s :=
  if_pos h

theorem exec_ret_of_entry {entry : Word} (h : 0 < s.sp.toNat) (hentry : s.stackEntry (s.sp.toNat - 1) = some entry) :
    exec .ret s = .next ((s.setSp (s.sp - 1)).setPc (entry + 2)) := by
  simp only [exec, execRet, if_neg h.ne', hentry]

theorem exec_ret_of_empty (h : s.sp.toNat = 0) : exec .ret s = raise (.stackUnderflow (encode .ret)) .ret s :=
  if_pos h

theorem exec_jpV0_of_le (h : offsetTarget s nnn ≤ 4095) :
    exec (.jpV0 nnn) s = .next (s.setPc (BitVec.ofNat 16 (offsetTarget s nnn))) :=
  if_neg (by omega)

theorem exec_jpV0_of_gt (h : 4095 < offsetTarget s nnn) :
    exec (.jpV0 nnn) s = raise (.outOfMemoryAccess (offsetTarget s nnn)) (.jpV0 nnn) s :=
  if_pos h

/-- A call with room on the stack makes one more entry live. -/
theorem toNat_sp_add_one (h : s.sp.toNat < 16) : (s.sp + 1).toNat = s.sp.toNat + 1 := by
  bv_omega

/-- A return from a stack that is not empty makes one entry fewer live. -/
theorem toNat_sp_sub_one (h : 0 < s.sp.toNat) : (s.sp - 1).toNat = s.sp.toNat - 1 := by
  bv_omega

end

/-! ## Each flow instruction by itself -/

/-- Settles O16: the target is the zero-extended field, and a `PC` that already has it is put back. -/
theorem jpSetsPcOnly : Obligations.JpSetsPcOnly := by
  unfold Obligations.JpSetsPcOnly
  intro nnn s
  refine ⟨⟨_, rfl, toNat_wideNNN nnn, rfl⟩, fun hpc => ?_⟩
  have hself : wideNNN nnn = s.pc := BitVec.eq_of_toNat_eq ((toNat_wideNNN nnn).trans hpc.symm)
  calc exec (.jp nnn) s = .next (s.setPc (wideNNN nnn)) := rfl
    _ = .next s := by rw [hself, State.setPc]

/-- Settles O17: with room on the stack the call writes the one entry, `SP` and `PC`. -/
theorem callPushesItsOwnAddress : Obligations.CallPushesItsOwnAddress := by
  unfold Obligations.CallPushesItsOwnAddress
  intro nnn s
  refine ⟨fun hsp => ⟨_, exec_call_of_lt hsp, ?_, fun k hk => ?_, toNat_sp_add_one hsp, toNat_wideNNN nnn, rfl⟩,
    fun hfull => ?_⟩
  · simp [State.stackEntry_setStackEntry _ _ _ _ hsp]
  · simp [State.stackEntry_setStackEntry _ _ _ _ hsp, hk]
  · exact (exec_call_of_full hfull.ge).trans ((raise_eq_next s _ _ _).mpr rfl)

/-- Settles O18: with `SP` from 1 to 16 there is an entry to pop. -/
theorem retPopsAndAddsTwo : Obligations.RetPopsAndAddsTwo := by
  unfold Obligations.RetPopsAndAddsTwo
  intro s
  refine ⟨fun hpos hle => ?_, fun hempty => ?_⟩
  · obtain ⟨entry, hentry⟩ := exists_stackEntry (s := s) (k := s.sp.toNat - 1) (by omega)
    exact ⟨entry, _, hentry, exec_ret_of_entry hpos hentry, toNat_sp_sub_one hpos, rfl, rfl⟩
  · exact (exec_ret_of_empty hempty).trans ((raise_eq_next s _ _ _).mpr rfl)

/-- Settles O20: a target of at most 4095 fits in `PC` unreduced. -/
theorem jpV0ChecksItsTarget : Obligations.JpV0ChecksItsTarget := by
  unfold Obligations.JpV0ChecksItsTarget
  intro nnn s
  refine ⟨fun hle => ⟨_, exec_jpV0_of_le hle, ?_, rfl⟩, fun hgt => ?_⟩
  · exact Nat.mod_eq_of_lt (hle.trans_lt (by decide))
  · exact (exec_jpV0_of_gt hgt).trans ((raise_eq_next s _ _ _).mpr rfl)

/-! ## A call and its return -/

/-- Settles O19: the entry that the return pops is the one that the call pushed. -/
theorem callThenReturn : Obligations.CallThenReturn := by
  unfold Obligations.CallThenReturn
  intro nnn s t hsp ht
  obtain ⟨t', ht', hpushed, hothers, hspt, -, hframe⟩ := (callPushesItsOwnAddress nnn s).1 hsp
  obtain rfl : t' = t := Host.Outcome.next.inj (ht'.symm.trans ht)
  have hpopped : t'.sp.toNat - 1 = s.sp.toNat := by omega
  have hspu : t'.sp - 1 = s.sp := BitVec.eq_of_toNat_eq ((toNat_sp_sub_one (by omega)).trans hpopped)
  have hv : t'.v = s.v := (congrArg State.v hframe :)
  have hmem : t'.mem = s.mem := (congrArg State.mem hframe :)
  exact ⟨_, exec_ret_of_entry (by omega) (hpopped ▸ hpushed), rfl, hspu, hv, hmem, fun k hk => hothers k hk.ne⟩

end Sys2Proof.Machine
end

section
/-! The proofs for the conditional skips (spec/41_skips.md): each skip ends by `skipIf` on its predicate. -/

namespace Sys2Proof.Machine

section
variable {s : State}

/-- The next state of a skip whose test decides `P`. -/
theorem skipIf_eq_next_of_iff {p : Bool} {P : Prop} [Decidable P] (h : p = true ↔ P) :
    skipIf p s = .next (s.setPc (if P then s.pc + 4 else s.pc + 2)) :=
  (skipIf_eq_next s p _).mpr (congrArg s.setPc (if_congr h.symm rfl rfl))

/-- A register with a key number makes the key skip a test of that key (R70). -/
theorem keySkip_eq_skipIf {x k : Reg} (i : Instr) (level : Bool) (hk : (s.getV x).toNat = k.val) :
    keySkip i x level s = skipIf (s.key k == level) s := by
  simp only [keySkip, (keyNumber_eq_some _ k).mpr hk]

end

/-- Settles O21: each skip tests its two bytes with the `==` or the `!=` of its rule. -/
theorem registerSkips : Obligations.RegisterSkips := by
  unfold Obligations.RegisterSkips
  intro x y kk ignored s
  exact ⟨skipIf_eq_next_of_iff beq_iff_eq, skipIf_eq_next_of_iff bne_iff_ne, skipIf_eq_next_of_iff beq_iff_eq,
    skipIf_eq_next_of_iff bne_iff_ne⟩

/-- Settles O22: the value of `V[x]` is the number of the key whose level is tested. -/
theorem keySkips : Obligations.KeySkips := by
  unfold Obligations.KeySkips
  intro x k s hk
  exact ⟨(keySkip_eq_skipIf (.skp x) true hk).trans (skipIf_eq_next_of_iff beq_iff_eq),
    (keySkip_eq_skipIf (.sknp x) false hk).trans (skipIf_eq_next_of_iff beq_iff_eq)⟩

end Sys2Proof.Machine
end

section
/-! The proofs for the arithmetic instructions (spec/42_arithmetic.md): the results and flags of the model as the
operations of its bytes, and the two ways in which an instruction ends, with a result alone or with a flag too. -/

namespace Sys2Proof.Machine

/-! ## Results and flags (R77) -/

@[simp] theorem flagOf_decide (P : Prop) [Decidable P] : flagOf (decide P) = if P then 1 else 0 := by
  simp only [flagOf, decide_eq_true_eq]

@[simp] theorem addFlagged_result (a b : Byte) : (addFlagged a b).result = a + b :=
  BitVec.eq_of_toNat_eq (by simp [addFlagged])

/-- Adding 256 before the subtraction is the borrow. -/
@[simp] theorem subFlagged_result (a b : Byte) : (subFlagged a b).result = a - b := by
  refine BitVec.eq_of_toNat_eq ?_
  have hborrow : a.toNat + 256 - b.toNat = 256 - b.toNat + a.toNat := by omega
  simp [subFlagged, BitVec.toNat_sub, hborrow]

/-- Halving fills bit 7 with 0. -/
@[simp] theorem shrFlagged_result (src : Byte) : (shrFlagged src).result = src >>> 1 := by
  refine BitVec.eq_of_toNat_eq ?_
  have hfits : src.toNat / 2 < 256 := by omega
  simp [shrFlagged, Nat.shiftRight_succ, Nat.mod_eq_of_lt hfits]

/-- Doubling fills bit 0 with 0. -/
@[simp] theorem shlFlagged_result (src : Byte) : (shlFlagged src).result = src <<< 1 :=
  BitVec.eq_of_toNat_eq (by simp [shlFlagged, Nat.shiftLeft_eq])

/-! ## How an arithmetic instruction ends -/

section
variable {s : State} {x : Reg}

theorem finish_setV (b : Byte) : finish (s.setV x b) = .next ((s.setV x b).setPc (s.pc + 2)) :=
  (finish_eq_next _ _).mpr rfl

/-- The result is written after the flag, so it is what stays in `VF` when `x` is 15 (R78). -/
theorem finish_writeFlagged {r : Flagged} {result flag : Byte} (hresult : r.result = result) (hflag : r.flag = flag) :
    ∃ t, finish (s.writeFlagged x r) = .next t ∧ t.getV x = result ∧ (x ≠ regF → t.getV regF = flag) ∧
      (∀ k, k ≠ x → k ≠ regF → t.getV k = s.getV k) ∧ t.pc = s.pc + 2 := by
  subst hresult hflag
  refine ⟨_, rfl, ?_, fun hx => ?_, fun k hk hF => ?_, rfl⟩
  · simp [State.getV_writeFlagged]
  · simp [State.getV_writeFlagged, hx.symm]
  · simp [State.getV_writeFlagged, hk, hF]

end

/-! ## The instructions -/

/-- Settles O23: each of the five ends with one register write. -/
theorem loadCopyAndLogic : Obligations.LoadCopyAndLogic := by
  unfold Obligations.LoadCopyAndLogic
  intro x y kk s
  exact ⟨finish_setV _, finish_setV _, finish_setV _, finish_setV _, finish_setV _⟩

/-- Settles O24: of the sum and its carry only the sum is written. -/
theorem addImmediateWithoutFlag : Obligations.AddImmediateWithoutFlag := by
  unfold Obligations.AddImmediateWithoutFlag
  intro x kk s
  refine ⟨_, finish_setV _, ?_, fun r hr => State.getV_setV_of_ne s x r _ hr, rfl⟩
  rw [State.getV_setPc, State.getV_setV_self, addFlagged_result, BitVec.toNat_add]

/-- Settles O25: the two operands are read before `VF` is written. -/
theorem addSetsCarry : Obligations.AddSetsCarry := by
  unfold Obligations.AddSetsCarry
  intro x y s
  obtain ⟨t, ht, hsum, hframe⟩ := finish_writeFlagged (s := s) (x := x) (addFlagged_result (s.getV x) (s.getV y))
    (flagOf_decide _)
  exact ⟨t, ht, (congrArg BitVec.toNat hsum).trans (BitVec.toNat_add _ _), hframe⟩

/-- Settles O26: the two subtractions differ in the order of their operands only. -/
theorem subtractSetsNoBorrow : Obligations.SubtractSetsNoBorrow := by
  unfold Obligations.SubtractSetsNoBorrow
  intro x y s
  exact ⟨finish_writeFlagged (subFlagged_result _ _) (flagOf_decide _),
    finish_writeFlagged (subFlagged_result _ _) (flagOf_decide _)⟩

/-- Settles O27: the source that the statement names is the model's `shiftSource`. -/
theorem shiftsReportTheBitShiftedOut : Obligations.ShiftsReportTheBitShiftedOut := by
  unfold Obligations.ShiftsReportTheBitShiftedOut
  intro x y s src hsrc
  obtain rfl : src = shiftSource s x y := hsrc
  exact ⟨finish_writeFlagged (shrFlagged_result _) rfl, finish_writeFlagged (shlFlagged_result _) rfl⟩

end Sys2Proof.Machine
end

section
/-! The proof for the random instruction (spec/43_random.md): what it writes beside `PC` is one masked draw and the
number of the next. -/

namespace Sys2Proof.Machine

/-- The draw is read off the state before its number advances (R91, R92). -/
theorem exec_rnd (x : Reg) (kk : Byte) (s : State) :
    exec (.rnd x kk) s = .next (((s.setV x (nextDraw s &&& kk)).setDraws (s.draws + 1)).setPc (s.pc + 2)) :=
  (finish_eq_next _ _).mpr rfl

/-- Settles O28: the byte written to `V[x]` is the one read back, whatever the draw is. -/
theorem rndMasksOneDraw : Obligations.RndMasksOneDraw := by
  unfold Obligations.RndMasksOneDraw
  intro x kk s
  have hread : (s.setV x (nextDraw s &&& kk)).getV x = nextDraw s &&& kk :=
    State.getV_setV_self s x _
  refine ⟨_, exec_rnd x kk s, hread, rfl, rfl, ?_⟩
  rw [State.getV_setPc, State.getV_setDraws, hread]
  rfl

end Sys2Proof.Machine
end

section
/-! The proofs for the draw instruction (spec/44_draw.md): what a part of a drawing does to the display and to the
collision note, put together from pixels to rows and from rows to the sprite. The pixels of one sprite land on distinct
cells, so no cell is toggled twice. -/

namespace Sys2Proof.Machine

/-! ## Inking a set of cells -/

/-- From `a` to `b` a drawing toggles exactly the cells of `P` and notes a collision exactly when one of them
was lit (R94). -/
structure Inked (P : Fin 32 → Fin 64 → Prop) (a b : Canvas) : Prop where
  cell : ∀ r c, b.display.cell r c = true ↔ (a.display.cell r c = true ↔ ¬ P r c)
  hit : b.hit = true ↔ a.hit = true ∨ ∃ r c, P r c ∧ a.display.cell r c = true

section
variable {P Q : Fin 32 → Fin 64 → Prop} {a b d : Canvas}

theorem Inked.congr (h : Inked P a b) (hPQ : ∀ r c, P r c ↔ Q r c) : Inked Q a b :=
  (funext₂ fun r c => propext (hPQ r c) : P = Q) ▸ h

theorem inked_of_empty (hP : ∀ r c, ¬ P r c) : Inked P a a where
  cell r c := by simp [hP]
  hit := by simp [hP]

/-- Two drawings without a common cell: what the second finds on its cells is what stood there before the first. -/
theorem Inked.trans (hab : Inked P a b) (hbd : Inked Q b d) (hdisj : ∀ r c, P r c → ¬ Q r c) :
    Inked (fun r c => P r c ∨ Q r c) a d where
  cell r c := by
    rw [hbd.cell, hab.cell]
    have hboth : P r c → ¬ Q r c := hdisj r c
    tauto
  hit := by
    have hkept : ∀ r c, Q r c → (b.display.cell r c = true ↔ a.display.cell r c = true) := fun r c hQ => by
      have hP : ¬ P r c := fun hP => hdisj r c hP hQ
      simp only [hab.cell, hP, not_false_eq_true, iff_true]
    rw [hbd.hit, hab.hit, or_assoc]
    refine or_congr_right ⟨?_, ?_⟩
    · rintro (⟨r, c, hP, hlit⟩ | ⟨r, c, hQ, hlit⟩)
      · exact ⟨r, c, .inl hP, hlit⟩
      · exact ⟨r, c, .inr hQ, (hkept r c hQ).mp hlit⟩
    · rintro ⟨r, c, hP | hQ, hlit⟩
      · exact .inl ⟨r, c, hP, hlit⟩
      · exact .inr ⟨r, c, hQ, (hkept r c hQ).mpr hlit⟩

/-- The parts of a drawing, one after another, no two of them with a common cell. -/
theorem inked_foldl_range {n : Nat} {R : Nat → Fin 32 → Fin 64 → Prop} {f : Nat → Canvas → Canvas}
    (hpart : ∀ k < n, ∀ cv, Inked (R k) cv (f k cv))
    (hdisj : ∀ j k r c, j < k → k < n → R j r c → ¬ R k r c) :
    Inked (fun r c => ∃ k < n, R k r c) a ((List.range n).foldl (fun cv k => f k cv) a) := by
  induction n with
  | zero => exact inked_of_empty (by simp)
  | succ n ih =>
    rw [List.range_succ, List.foldl_append]
    have hfirst := ih (fun k hk => hpart k (by omega)) (fun j k r c hjk hk => hdisj j k r c hjk (by omega))
    have hlast := hpart n (by omega) ((List.range n).foldl (fun cv k => f k cv) a)
    have hnew : ∀ r c, (∃ k < n, R k r c) → ¬ R n r c := by
      rintro r c ⟨k, hk, hR⟩
      exact hdisj k n r c hk (by omega) hR
    exact (hfirst.trans hlast hnew).congr fun r c => by simp only [Nat.exists_lt_succ_right]

end

/-! ## Pixels, rows and the sprite -/

section
variable {w : Bool} {px py : Nat} {r : Fin 32} {c : Fin 64}

/-- Where a pixel lands in either mode (R93). -/
theorem pixelCell_eq_some : pixelCell w px py = some (r, c) ↔
    if w then py % 32 = r.val ∧ px % 64 = c.val else py = r.val ∧ px = c.val := by
  cases w with
  | true => simp [pixelCell_wrapping, Fin.ext_iff]
  | false => simpa using pixelCell_clipping px py r c

/-- A pixel that lands keeps its place modulo the display, clipped or not. -/
theorem mod_of_pixelCell (h : pixelCell w px py = some (r, c)) : py % 32 = r.val ∧ px % 64 = c.val := by
  rw [pixelCell_eq_some] at h
  cases w with
  | true => exact h
  | false =>
    obtain ⟨hrow, hcol⟩ : py = r.val ∧ px = c.val := h
    omega

end

theorem inked_plot (w : Bool) (px py : Nat) (cv : Canvas) :
    Inked (fun r c => pixelCell w px py = some (r, c)) cv (plot w px py cv) where
  cell r c := by
    rw [cell_plot]
    by_cases hland : pixelCell w px py = some (r, c) <;> simp [hland]
  hit := hit_plot w px py cv

/-- The eight columns of a row differ modulo the width of the display. -/
theorem inked_drawRow (w : Bool) (px py : Nat) (row : Byte) (cv : Canvas) :
    Inked (fun r c => ∃ k < 8, spriteBit row k = true ∧ pixelCell w (px + k) py = some (r, c)) cv
      (drawRow w px py row cv) := by
  refine inked_foldl_range (f := fun k cv => if spriteBit row k then plot w (px + k) py cv else cv) ?_ ?_
  · intro k _ cv
    by_cases hbit : spriteBit row k = true
    · simp only [if_pos hbit]
      exact (inked_plot w (px + k) py cv).congr fun r c => (and_iff_right hbit).symm
    · simp only [if_neg hbit]
      exact inked_of_empty fun r c hrc => hbit hrc.1
  · rintro j k r c hjk hk ⟨-, hj⟩ ⟨-, hk'⟩
    obtain ⟨-, hcol⟩ := mod_of_pixelCell hj
    obtain ⟨-, hcol'⟩ := mod_of_pixelCell hk'
    omega

/-- The rows of a sprite, fewer than 32, differ modulo the height of the display. -/
theorem inked_drawSprite (s : State) (px py : Nat) {n : Nat} (hn : n ≤ 32) (cv : Canvas) :
    Inked (fun r c => ∃ row < n, ∃ k < 8, spriteBit (s.byteAt (s.i.toNat + row)) k = true ∧
      pixelCell s.wrapping (px + k) (py + row) = some (r, c)) cv (drawSprite s px py n cv) := by
  refine inked_foldl_range (fun row _ cv => inked_drawRow s.wrapping px (py + row) _ cv) ?_
  rintro i j r c hij hj ⟨_, _, _, hi⟩ ⟨_, _, _, hj'⟩
  obtain ⟨hrow, -⟩ := mod_of_pixelCell hi
  obtain ⟨hrow', -⟩ := mod_of_pixelCell hj'
  omega

section
variable {s t : State} {x y : Reg} {n : Nibble}

theorem spriteCovers_iff {r : Fin 32} {c : Fin 64} : spriteCovers s x y n r c ↔
    ∃ row < n.toNat, ∃ k < 8, spriteBit (s.byteAt (s.i.toNat + row)) k = true ∧
      pixelCell s.wrapping ((s.getV x).toNat + k) ((s.getV y).toNat + row) = some (r, c) := by
  simp only [spriteCovers, spriteBit, pixelCell_eq_some]
  constructor
  · rintro ⟨row, k, hrow, hk, hlit⟩
    exact ⟨row, hrow, k, hk, hlit⟩
  · rintro ⟨row, hrow, k, hk, hlit⟩
    exact ⟨row, k, hrow, hk, hlit⟩

/-- The sprite is drawn on the cells it covers. -/
theorem inked_drawn (s : State) (x y : Reg) (n : Nibble) :
    Inked (spriteCovers s x y n) ⟨s.display, false⟩ (drawn s x y n) :=
  (inked_drawSprite s _ _ (by omega) _).congr fun _ _ => spriteCovers_iff.symm

/-! ## The instruction -/

theorem flagOf_eq_one {p : Bool} : flagOf p = 1 ↔ p = true := by
  cases p <;> decide

theorem flagOf_eq_zero {p : Bool} : flagOf p = 0 ↔ p = false := by
  cases p <;> decide

theorem exec_drw_of_le (h : s.i.toNat + n.toNat ≤ 4096) : exec (.drw x y n) s =
    .next (((s.setDisplay (drawn s x y n).display).setV regF (flagOf (drawn s x y n).hit)).setPc (s.pc + 2)) := by
  simp only [exec, execDrw, spanFault_of_le _ _ h]
  rfl

theorem drawn_hit : (drawn s x y n).hit = true ↔ ∃ r c, spriteCovers s x y n r c ∧ s.display.cell r c = true := by
  simpa using (inked_drawn s x y n).hit

section
variable (hle : s.i.toNat + n.toNat ≤ 4096) (h : exec (.drw x y n) s = .next t)
include hle h

theorem eq_of_exec_drw :
    t = ((s.setDisplay (drawn s x y n).display).setV regF (flagOf (drawn s x y n).hit)).setPc (s.pc + 2) :=
  (Host.Outcome.next.inj ((exec_drw_of_le hle).symm.trans h)).symm

theorem i_of_exec_drw : t.i = s.i := eq_of_exec_drw hle h ▸ rfl

theorem cell_of_exec_drw (r : Fin 32) (c : Fin 64) :
    t.display.cell r c = true ↔ (s.display.cell r c = true ↔ ¬ spriteCovers s x y n r c) :=
  eq_of_exec_drw hle h ▸ (inked_drawn s x y n).cell r c

theorem getV_regF_of_exec_drw : t.getV regF = flagOf (drawn s x y n).hit :=
  eq_of_exec_drw hle h ▸ State.getV_setV_self _ regF _

theorem getV_regF_eq_one_of_exec_drw :
    t.getV regF = 1 ↔ ∃ r c, spriteCovers s x y n r c ∧ s.display.cell r c = true := by
  rw [getV_regF_of_exec_drw hle h, flagOf_eq_one, drawn_hit]

theorem getV_regF_eq_zero_of_exec_drw :
    t.getV regF = 0 ↔ ¬ ∃ r c, spriteCovers s x y n r c ∧ s.display.cell r c = true := by
  rw [getV_regF_of_exec_drw hle h, flagOf_eq_zero, ← drawn_hit, Bool.not_eq_true]

/-- Where the two coordinate registers are as before, a draw has left everything that places the sprite. -/
theorem spriteCovers_of_exec_drw (hx : t.getV x = s.getV x) (hy : t.getV y = s.getV y) (r : Fin 32) (c : Fin 64) :
    spriteCovers t x y n r c ↔ spriteCovers s x y n r c := by
  obtain rfl := eq_of_exec_drw hle h
  simp only [spriteCovers, hx, hy]
  rfl

end

end

/-- Settles O29: the cells that the model inks are those of the statement's covering relation. -/
theorem drawTogglesCoveredCells : Obligations.DrawTogglesCoveredCells := by
  unfold Obligations.DrawTogglesCoveredCells
  intro x y n s hle
  obtain ⟨t, ht⟩ : ∃ t, exec (.drw x y n) s = .next t := ⟨_, exec_drw_of_le hle⟩
  refine ⟨t, ht, cell_of_exec_drw hle ht, (getV_regF_eq_one_of_exec_drw hle ht).mpr,
    (getV_regF_eq_zero_of_exec_drw hle ht).mpr, ?_⟩
  rw [getV_regF_of_exec_drw hle ht]
  exact eq_of_exec_drw hle ht ▸ rfl

/-- Settles O30: the second draw toggles the same cells as the first, so it finds each of them as the first left it. -/
theorem drawTwiceRestores : Obligations.DrawTwiceRestores := by
  unfold Obligations.DrawTwiceRestores
  intro x y n s t u hle hst hx hy htu
  have hle' : t.i.toNat + n.toNat ≤ 4096 := by rwa [i_of_exec_drw hle hst]
  have hcovers := spriteCovers_of_exec_drw hle hst hx hy
  have hfirst := cell_of_exec_drw hle hst
  have hsecond := cell_of_exec_drw hle' htu
  constructor
  · refine Display.ext_cell _ _ fun r c => ?_
    rw [Bool.eq_iff_iff, hsecond, hfirst, hcovers]
    tauto
  · rw [getV_regF_eq_one_of_exec_drw hle' htu]
    refine exists₂_congr fun r c => ?_
    rw [hcovers, hfirst, ← Bool.not_eq_true]
    tauto

end Sys2Proof.Machine
end

section
/-! The proofs for the block transfers (spec/45_block_transfer.md): inside the memory both complete, what each moves is
read off its writes, and they advance `I` alike. -/

namespace Sys2Proof.Machine

section
variable {s : State} {x k : Reg}

/-- Past the block, or unchanged with the quirk; inside the memory the sum does not wrap (R95). -/
theorem toNat_blockIndex (h : s.i.toNat + x.val ≤ 4095) :
    (blockIndex s x).toNat = if s.loadStoreQuirk = true then s.i.toNat else s.i.toNat + x.val + 1 := by
  have hfits : s.i.toNat + (x.val + 1) < 2 ^ 16 := by omega
  rw [blockIndex, blockLength, apply_ite BitVec.toNat, BitVec.toNat_ofNat, Nat.mod_eq_of_lt hfits, Nat.add_assoc]

/-- A block store inside the memory leaves every byte outside its block (R96). -/
theorem byteAt_written_storeRegs_of_outside {a : Nat} (hm : s.mem.wf = true) (h : s.i.toNat + x.val ≤ 4095)
    (ha : a < s.i.toNat ∨ s.i.toNat + x.val < a) : ((Instr.storeRegs x).written s).byteAt a = s.byteAt a := by
  have hf : (Instr.storeRegs x).faultWhen s = none := by simp [Instr.faultWhen, h]
  have hnot : ¬ (s.i.toNat ≤ a ∧ a < s.i.toNat + blockLength x) := by rw [blockLength]; omega
  have hout : (Instr.storeRegs x).stores s a = false := by
    rw [Instr.stores, ← Bool.decide_and]
    exact decide_eq_false hnot
  exact Instr.byteAt_written hf hm hout

/-- A block load inside the memory does not fault (R95, R97). -/
theorem exec_loadRegs_of_le (h : s.i.toNat + x.val ≤ 4095) :
    exec (.loadRegs x) s = finish ((Instr.loadRegs x).written s) := by
  have hspan : spanFault s.i.toNat (blockLength x) = none :=
    spanFault_of_le _ _ (by rw [blockLength]; omega)
  simp only [exec, execLoadRegs, hspan, Instr.written]

/-- A block load takes register `k` from `I + k` (R39, R97). -/
theorem getV_written_loadRegs (hk : k ≤ x) :
    ((Instr.loadRegs x).written s).getV k = s.byteAt (s.i.toNat + k.val) := by
  simp [Instr.written, blockLoaded, hk]

/-- A block load leaves the registers past `V[x]` (R97). -/
theorem getV_written_loadRegs_of_gt (hk : x < k) : ((Instr.loadRegs x).written s).getV k = s.getV k :=
  Instr.getV_written (decide_eq_false (not_le.mpr hk))

end

/-- Settles O31: the store completes with its writes, which are the block and the advanced `I`. -/
theorem storeMovesTheBlock : Obligations.StoreMovesTheBlock := by
  unfold Obligations.StoreMovesTheBlock
  intro x s hm h
  exact ⟨_, exec_storeRegs_of_le h, fun k hk => byteAt_written_storeRegs hm h hk,
    fun a ha => byteAt_written_storeRegs_of_outside hm h ha, toNat_blockIndex h, rfl⟩

/-- Settles O32: the load completes with its writes, which are the registers up to `V[x]` and the advanced `I`. -/
theorem loadMovesTheBlock : Obligations.LoadMovesTheBlock := by
  unfold Obligations.LoadMovesTheBlock
  intro x s h
  exact ⟨_, exec_loadRegs_of_le h, fun k hk => getV_written_loadRegs hk,
    fun k hk => getV_written_loadRegs_of_gt hk, toNat_blockIndex h, rfl⟩

end Sys2Proof.Machine
end

section
/-! The proofs for the BCD store (spec/46_bcd.md): inside the memory it completes, and the bytes it leaves are read off
its writes; past the memory it faults. -/

namespace Sys2Proof.Machine

/-- The digits of a byte fit in bytes, so storing them does not reduce them (R98). -/
theorem map_toNat_bcdDigits (b : Byte) :
    (bcdDigits b).map BitVec.toNat = [b.toNat / 100, b.toNat / 10 % 10, b.toNat % 10] := by
  have hundreds : b.toNat / 100 < 2 ^ 8 := by omega
  have htens : b.toNat / 10 % 10 < 2 ^ 8 := by omega
  have hunits : b.toNat % 10 < 2 ^ 8 := by omega
  simp only [bcdDigits, List.map_cons, List.map_nil, BitVec.toNat_ofNat, Nat.mod_eq_of_lt hundreds,
    Nat.mod_eq_of_lt htens, Nat.mod_eq_of_lt hunits]

section
variable {s : State} {x : Reg}

/-- A BCD store inside the memory does not fault (R98). -/
theorem exec_ldBcd_of_le (h : s.i.toNat ≤ 4093) : exec (.ldBcd x) s = finish ((Instr.ldBcd x).written s) := by
  have hspan : spanFault s.i.toNat 3 = none := spanFault_of_le _ _ (by omega)
  simp only [exec, execLdBcd, hspan, Instr.written]

/-- A BCD store that ends past the memory faults (R98). -/
theorem exec_ldBcd_of_gt (h : 4093 < s.i.toNat) :
    exec (.ldBcd x) s = raise (.outOfMemoryAccess (max s.i.toNat 4096)) (.ldBcd x) s := by
  have hspan : spanFault s.i.toNat 3 = some (.outOfMemoryAccess (max s.i.toNat 4096)) :=
    spanFault_of_gt _ _ (by omega)
  simp only [exec, execLdBcd, hspan]

/-- Digit `k` of a BCD store, the hundreds first, stands at `I + k` (R98). -/
theorem toNat_byteAt_written_ldBcd {k d : Nat} (hm : s.mem.wf = true) (h : s.i.toNat ≤ 4093)
    (hd : [(s.getV x).toNat / 100, (s.getV x).toNat / 10 % 10, (s.getV x).toNat % 10][k]? = some d) :
    (((Instr.ldBcd x).written s).byteAt (s.i.toNat + k)).toNat = d := by
  rw [← map_toNat_bcdDigits, List.getElem?_map] at hd
  obtain ⟨b, hb, rfl⟩ := Option.map_eq_some_iff.mp hd
  have hlen : (bcdDigits (s.getV x)).length = 3 := rfl
  have hk : k < 3 := hlen ▸ (List.getElem?_eq_some_iff.mp hb).1
  simp only [Instr.written, State.byteAt_setMem]
  rw [Memory.read_writeBytes _ _ _ _ hm (by omega), if_pos (by omega), Nat.add_sub_cancel_left, hb, Option.getD_some]

/-- A BCD store inside the memory leaves every byte but the three it stores (R98). -/
theorem byteAt_written_ldBcd_of_outside {a : Nat} (hm : s.mem.wf = true) (h : s.i.toNat ≤ 4093)
    (ha : a < s.i.toNat ∨ s.i.toNat + 2 < a) : ((Instr.ldBcd x).written s).byteAt a = s.byteAt a := by
  have hf : (Instr.ldBcd x).faultWhen s = none := if_neg (by omega)
  have hnot : ¬ (s.i.toNat ≤ a ∧ a < s.i.toNat + 3) := by omega
  have hout : (Instr.ldBcd x).stores s a = false := by
    rw [Instr.stores, ← Bool.decide_and]
    exact decide_eq_false hnot
  exact Instr.byteAt_written hf hm hout

end

/-- Settles O33: the store completes with its writes, which are the three digits, or its span check faults. -/
theorem bcdStoresTheDigits : Obligations.BcdStoresTheDigits := by
  unfold Obligations.BcdStoresTheDigits
  intro x s hm
  refine ⟨fun hle => ⟨_, exec_ldBcd_of_le hle, ?_, ?_, ?_, ?_, rfl⟩, fun hgt => ?_⟩
  · exact toNat_byteAt_written_ldBcd (k := 0) hm hle rfl
  · exact toNat_byteAt_written_ldBcd (k := 1) hm hle rfl
  · exact toNat_byteAt_written_ldBcd (k := 2) hm hle rfl
  · exact fun a ha => byteAt_written_ldBcd_of_outside hm hle ha
  · exact (exec_ldBcd_of_gt hgt).trans ((raise_eq_next s _ _ _).mpr rfl)

end Sys2Proof.Machine
end

section
/-! The proofs for the key wait (spec/47_keywait.md): what it answers with a key down and with none, and how a stalled
wait spends the credits of a run. -/

namespace Sys2Proof.Machine

section
variable {s : State} {x : Reg}

/-- The wait ends with the number of the lowest key that is down (R99). -/
theorem exec_ldKey_of_lowestKey {k : Reg} (h : lowestKey s = some k) :
    exec (.ldKey x) s = .next ((s.setV x (BitVec.ofNat 8 k.val)).setPc (s.pc + 2)) := by
  simp only [exec, execLdKey, h]
  exact (finish_eq_next _ _).mpr rfl

/-- With no key down the wait stalls: it writes nothing, not even `PC` (R99). -/
theorem exec_ldKey_of_no_key (hup : ∀ k : Reg, s.key k = false) : exec (.ldKey x) s = .next s := by
  simp only [exec, execLdKey, (lowestKey_eq_none s).mpr hup]

/-- A paid cycle that latches no fault leads on to the cycles that are left (R123). -/
theorem runCycles_succ_of_step {n : Nat} {t : State} (hstep : step s.payCycle = .next t) (ht : t.fault = none) :
    runCycles (n + 1) s = runCycles n t := by
  simp [runCycles, hstep, ht]

/-- A paid cycle of a stalled key wait takes its credit and does nothing else: the fetch, the keys and the latch do not
depend on the credits (R99, R141). -/
theorem step_payCycle_of_stalled (hrun : s.fault = none) (hfetch : fetchDecode s = .ok (.ldKey x))
    (hup : ∀ k : Reg, s.key k = false) : step s.payCycle = .next s.payCycle := by
  have hexec : step s.payCycle = exec (.ldKey x) s.payCycle := step_of_fetchDecode_ok (s := s.payCycle) hrun hfetch
  exact hexec.trans (exec_ldKey_of_no_key hup)

end

/-- Settles O36, by induction on the number of cycles: after a paid cycle the wait is stalled as before. -/
theorem stalledKeyWaitOnlySpendsCredit : Obligations.StalledKeyWaitOnlySpendsCredit := by
  unfold Obligations.StalledKeyWaitOnlySpendsCredit
  intro x n s hrun hfetch hup
  induction n generalizing s with
  | zero => simp [runCycles, State.setCredits]
  | succ n ih =>
    have hcredit : s.cycleCredit - 1 - n = s.cycleCredit - (n + 1 : Nat) := by
      push_cast
      ring
    calc runCycles (n + 1) s
        = runCycles n s.payCycle := runCycles_succ_of_step (step_payCycle_of_stalled hrun hfetch hup) hrun
      _ = .next (s.setCredits (s.cycleCredit - 1 - n) s.timerCredit) := ih s.payCycle hrun hfetch hup
      _ = .next (s.setCredits (s.cycleCredit - (n + 1 : Nat)) s.timerCredit) := by rw [hcredit]

/-- Settles O35: a key that is down with no lower one down is the one the wait takes. -/
theorem keyWaitTakesTheLowestKey : Obligations.KeyWaitTakesTheLowestKey := by
  unfold Obligations.KeyWaitTakesTheLowestKey
  intro x s
  exact ⟨fun k hdown hlower => exec_ldKey_of_lowestKey ((lowestKey_eq_some s k).mpr ⟨hdown, hlower⟩),
    exec_ldKey_of_no_key⟩

end Sys2Proof.Machine
end

section
/-! The proofs for the clear and the no-operation (spec/48_clear_nop.md): both end by `finish`, the first after one
write of the display, the second after none. -/

namespace Sys2Proof.Machine

/-- Settles O14: the no-operation writes nothing before `PC`, and a word decodes to it exactly when it is its
encoding. -/
theorem nopAdvancesPcOnly : Obligations.NopAdvancesPcOnly := by
  unfold Obligations.NopAdvancesPcOnly
  exact ⟨fun s => (finish_eq_next s _).mpr rfl, fun op => decodeWord_eq_ok_iff_encode.trans eq_comm⟩

/-- Settles O15: the cells are those of the cleared display. -/
theorem clsUnlightsEveryCell : Obligations.ClsUnlightsEveryCell := by
  unfold Obligations.ClsUnlightsEveryCell
  intro s
  exact ⟨(s.setDisplay Display.clear).stepPc, rfl, Display.cell_clear, rfl, rfl⟩

end Sys2Proof.Machine
end

section
/-! The proofs for the index register, the timer moves and the glyph address (spec/49_index_timer_font.md): what each
instruction answers, and the sums with `I` as numbers. -/

namespace Sys2Proof.Machine

/-- Zero extension keeps the value of a byte (R104). -/
theorem toNat_wideByte (b : Byte) : (wideByte b).toNat = b.toNat :=
  BitVec.toNat_setWidth_of_le (by decide)

/-- A glyph takes five bytes, and sixteen of them end below 65536 (R44, R105). -/
theorem toNat_glyphAddress {d : Byte} (h : d.toNat ≤ 15) : (glyphAddress d).toNat = 5 * d.toNat := by
  have hfits : 5 * d.toNat < 2 ^ 16 := by omega
  calc (glyphAddress d).toNat = 5 * (wideByte d).toNat % 2 ^ 16 := BitVec.toNat_mul _ _
    _ = 5 * d.toNat := by rw [toNat_wideByte, Nat.mod_eq_of_lt hfits]

section
variable {s : State} {x : Reg}

theorem exec_ldFont_of_le (h : (s.getV x).toNat ≤ 15) :
    exec (.ldFont x) s = finish (s.setI (glyphAddress (s.getV x))) :=
  if_neg (by omega)

theorem exec_ldFont_of_gt (h : 15 < (s.getV x).toNat) :
    exec (.ldFont x) s = raise (.invalidDigit (s.getV x).toNat) (.ldFont x) s :=
  if_pos h

theorem exec_ldSt : exec (.ldSt x) s = .next ((s.setSt (s.getV x)).setPc (s.pc + 2)) :=
  (finish_eq_next _ _).mpr rfl

/-- The sound flag is on exactly while the sound timer is above 0 (R22, R122). -/
theorem soundOn_eq_true : soundOn s = true ↔ s.st.toNat > 0 := decide_eq_true_iff

end

/-- Settles O37: the field is zero-extended, and the sum of 16-bit words is the sum mod 65536. -/
theorem indexLoadAndAdd : Obligations.IndexLoadAndAdd := by
  unfold Obligations.IndexLoadAndAdd
  intro nnn x s
  refine ⟨⟨_, rfl, toNat_wideNNN nnn, rfl⟩, ⟨_, rfl, ?_, rfl⟩⟩
  calc (s.i + wideByte (s.getV x)).toNat = (s.i.toNat + (wideByte (s.getV x)).toNat) % 65536 := BitVec.toNat_add _ _
    _ = (s.i.toNat + (s.getV x).toNat) % 65536 := by rw [toNat_wideByte]

/-- Settles O38: the address of a digit's glyph does not wrap, and any other value is raised as it is. -/
theorem glyphAddress_ldFont : Obligations.GlyphAddress := by
  unfold Obligations.GlyphAddress
  intro x s
  refine ⟨fun hle => ⟨_, exec_ldFont_of_le hle, toNat_glyphAddress hle, rfl⟩, fun hgt => ?_⟩
  exact (exec_ldFont_of_gt hgt).trans ((raise_eq_next s _ _ _).mpr rfl)

/-- Settles O39: each of the three ends with one write, and the sound flag is read off `ST`. -/
theorem timerMoves : Obligations.TimerMoves := by
  unfold Obligations.TimerMoves
  intro x s
  exact ⟨finish_setV _, (finish_eq_next _ _).mpr rfl, _, exec_ldSt, rfl, soundOn_eq_true⟩

end Sys2Proof.Machine
end

section
/-! The proofs for the faults of a cycle (spec/60_exceptions.md R109 to R117): the table of faults read instruction by
instruction, then stage by stage, and what a latched fault leaves to do. -/

namespace Sys2Proof.Machine

/-! ## The execute stage -/

section
variable {s : State} {i : Instr} {x : Reg}

/-- A register with no key number makes a key skip fault (R70). -/
theorem keySkip_of_gt (i : Instr) (level : Bool) (h : 15 < (s.getV x).toNat) :
    keySkip i x level s = raise (.unknownKey (s.getV x).toNat) i s := by
  simp only [keySkip, (keyNumber_eq_none _).mpr h]

/-- A register of at most 15 makes it a skip (R70). -/
theorem keySkip_of_le (i : Instr) (level : Bool) (h : (s.getV x).toNat ≤ 15) :
    keySkip i x level s = skipIf (s.key ⟨(s.getV x).toNat, by omega⟩ == level) s :=
  keySkip_eq_skipIf i level rfl

theorem exec_drw_of_gt {y : Reg} {n : Nibble} (h : 4096 < s.i.toNat + n.toNat) :
    exec (.drw x y n) s = raise (.outOfMemoryAccess (max s.i.toNat 4096)) (.drw x y n) s := by
  simp only [exec, execDrw, spanFault_of_gt _ _ h]

theorem spanFault_blockLength_of_gt (h : 4095 < s.i.toNat + x.val) :
    spanFault s.i.toNat (blockLength x) = some (.outOfMemoryAccess (max s.i.toNat 4096)) :=
  spanFault_of_gt _ _ (by rw [blockLength]; omega)

theorem exec_storeRegs_of_gt (h : 4095 < s.i.toNat + x.val) :
    exec (.storeRegs x) s = raise (.outOfMemoryAccess (max s.i.toNat 4096)) (.storeRegs x) s := by
  simp only [exec, execStoreRegs, spanFault_blockLength_of_gt h]

theorem exec_loadRegs_of_gt (h : 4095 < s.i.toNat + x.val) :
    exec (.loadRegs x) s = raise (.outOfMemoryAccess (max s.i.toNat 4096)) (.loadRegs x) s := by
  simp only [exec, execLoadRegs, spanFault_blockLength_of_gt h]

/-- A condition of the table that names a fault holds, and the fault is the one of its row. -/
theorem of_ite_eq_some {P : Prop} [Decidable P] {c c' : Cause} (h : (if P then some c else none) = some c') :
    P ∧ c = c' := by
  obtain ⟨hP, hc⟩ := Option.ite_none_right_eq_some.mp h
  exact ⟨hP, Option.some.inj hc⟩

/-- A condition of the table that names no fault does not hold. -/
theorem of_ite_eq_none {P : Prop} [Decidable P] {c : Cause} (h : (if P then some c else none) = none) : ¬ P := by
  simpa using h

/-- An instruction whose row of the table names a fault raises it, before it changes anything (R110, R112). -/
theorem exec_of_faultWhen_some {c : Cause} (h : i.faultWhen s = some c) : exec i s = raise c i s := by
  cases i with
  | call nnn =>
    obtain ⟨hfull, rfl⟩ := of_ite_eq_some h
    exact exec_call_of_full hfull.ge
  | ret =>
    obtain ⟨hempty, rfl⟩ := of_ite_eq_some h
    exact exec_ret_of_empty hempty
  | jpV0 nnn =>
    obtain ⟨hgt, rfl⟩ := of_ite_eq_some h
    exact exec_jpV0_of_gt hgt
  | skp x | sknp x =>
    obtain ⟨hgt, rfl⟩ := of_ite_eq_some h
    exact keySkip_of_gt _ _ hgt
  | drw x y n =>
    obtain ⟨hgt, rfl⟩ := of_ite_eq_some h
    exact exec_drw_of_gt hgt
  | storeRegs x =>
    obtain ⟨hgt, rfl⟩ := of_ite_eq_some h
    exact exec_storeRegs_of_gt hgt
  | loadRegs x =>
    obtain ⟨hgt, rfl⟩ := of_ite_eq_some h
    exact exec_loadRegs_of_gt hgt
  | ldBcd x =>
    obtain ⟨hgt, rfl⟩ := of_ite_eq_some h
    exact exec_ldBcd_of_gt (by omega)
  | ldFont x =>
    obtain ⟨hgt, rfl⟩ := of_ite_eq_some h
    exact exec_ldFont_of_gt hgt
  | _ => nomatch h

/-- A skip leaves the latch. -/
theorem skipIf_keeps_latch (p : Bool) : ∃ t, skipIf p s = .next t ∧ t.fault = s.fault :=
  ⟨_, (skipIf_eq_next s p _).mpr rfl, rfl⟩

/-- An instruction whose row of the table names no fault completes and leaves the latch (R110). -/
theorem exec_of_faultWhen_none (hsp : s.sp.toNat ≤ 16) (h : i.faultWhen s = none) :
    ∃ t, exec i s = .next t ∧ t.fault = s.fault := by
  cases i with
  | call nnn =>
    have hroom : s.sp.toNat ≠ 16 := of_ite_eq_none h
    exact ⟨_, exec_call_of_lt (by omega), rfl⟩
  | ret =>
    have hne : s.sp.toNat ≠ 0 := of_ite_eq_none h
    obtain ⟨entry, hentry⟩ := exists_stackEntry (s := s) (k := s.sp.toNat - 1) (by omega)
    exact ⟨_, exec_ret_of_entry (by omega) hentry, rfl⟩
  | jpV0 nnn => exact ⟨_, exec_jpV0_of_le (not_lt.mp (of_ite_eq_none h)), rfl⟩
  | skp x | sknp x =>
    obtain ⟨t, ht, hlatch⟩ := skipIf_keeps_latch _
    exact ⟨t, (keySkip_of_le _ _ (not_lt.mp (of_ite_eq_none h))).trans ht, hlatch⟩
  | seImm | sneImm | seReg | sneReg => exact skipIf_keeps_latch _
  | drw x y n => exact ⟨_, exec_drw_of_le (not_lt.mp (of_ite_eq_none h)), rfl⟩
  | storeRegs x => exact ⟨_, exec_storeRegs_of_le (not_lt.mp (of_ite_eq_none h)), rfl⟩
  | loadRegs x => exact ⟨_, exec_loadRegs_of_le (not_lt.mp (of_ite_eq_none h)), rfl⟩
  | ldBcd x =>
    have hle : ¬ s.i.toNat + 2 > 4095 := of_ite_eq_none h
    exact ⟨_, exec_ldBcd_of_le (by omega), rfl⟩
  | ldFont x => exact ⟨_, exec_ldFont_of_le (not_lt.mp (of_ite_eq_none h)), rfl⟩
  | ldKey x =>
    cases hk : lowestKey s with
    | none => exact ⟨s, exec_ldKey_of_no_key ((lowestKey_eq_none s).mp hk), rfl⟩
    | some k => exact ⟨_, exec_ldKey_of_lowestKey hk, rfl⟩
  | _ => exact ⟨_, rfl, rfl⟩

end

/-- Settles O13, row by row of the table. -/
theorem executeStageFaults : Obligations.ExecuteStageFaults := by
  unfold Obligations.ExecuteStageFaults
  intro i s hsp
  exact ⟨fun c hc => (exec_of_faultWhen_some hc).trans ((raise_eq_next s c i _).mpr rfl), exec_of_faultWhen_none hsp⟩

/-! ## The whole cycle -/

section
variable {s t : State} {i : Instr}

theorem step_of_decodeWord (hrun : s.fault = none) (hpc : s.pc.toNat ≤ 4094)
    (hdec : decodeWord s.wordAtPc = .ok i) : step s = exec i s :=
  step_of_fetchDecode_ok hrun ((fetchDecode_eq_ok s i).mpr ⟨s.wordAtPc, fetch_eq_wordAtPc hpc, hdec⟩)

/-- The fault that the table names is the one the cycle takes, stage by stage (R114). -/
theorem step_of_cycleFault_some {c : Cause} (hrun : s.fault = none) (h : s.cycleFault = some c) :
    step s = .next (s.setFault (some ⟨c, s.pc, if s.pc.toNat ≤ 4094 then some s.wordAtPc else none⟩)) := by
  obtain ⟨habove, hlast, hunknown⟩ := fetchAndDecodeFaultsAreTaken s hrun
  unfold State.cycleFault at h
  split at h
  · next hpc =>
    obtain rfl := Option.some.inj h
    rw [habove hpc, if_neg (by omega)]
  · split at h
    · next hpc =>
      obtain rfl := Option.some.inj h
      rw [hlast hpc, if_neg (by omega)]
    · have hpc : s.pc.toNat ≤ 4094 := by omega
      rw [if_pos hpc]
      split at h
      · next e herr =>
        obtain rfl := Option.some.inj h
        obtain ⟨hnone, -⟩ := (decodeWord_eq_error _ e).mp herr
        exact hunknown hpc (selectInstr_eq_none.mp hnone)
      · next i hdec =>
        rw [step_of_decodeWord hrun hpc hdec, exec_of_faultWhen_some h, raise_eq_next,
          decodeWord_eq_ok_iff_encode.mp hdec]

/-- Where the table names no fault, the fetched word decodes to an instruction that names none. -/
theorem step_of_cycleFault_none (hrun : s.fault = none) (hsp : s.sp.toNat ≤ 16) (h : s.cycleFault = none) :
    ∃ t, step s = .next t ∧ t.fault = none := by
  unfold State.cycleFault at h
  split at h
  · nomatch h
  · split at h
    · nomatch h
    · split at h
      · nomatch h
      · next i hdec =>
        rw [step_of_decodeWord hrun (by omega) hdec, ← hrun]
        exact exec_of_faultWhen_none hsp h

/-- FAULTS ARE PRECISE: a cycle that latches a fault changes nothing but the latch (R112). -/
theorem eq_setFault_of_step {r : FaultRecord} (hrun : s.fault = none) (h : step s = .next t) (hr : t.fault = some r) :
    t = s.setFault (some r) := by
  have hlatch : t.fault = s.fault ∨ ∃ f, t = s.setFault f := by
    obtain ⟨-, rfl⟩ | ⟨-, c, op, -, rfl⟩ | ⟨-, i, -, hexec⟩ := step_cases s t h
    · exact .inl rfl
    · exact .inr ⟨_, rfl⟩
    · obtain ⟨-, -, hkept | ⟨c, rfl⟩⟩ := frameOfHostStateAndLatch i s t hexec
      · exact .inl hkept
      · exact .inr ⟨_, rfl⟩
  obtain hkept | ⟨f, rfl⟩ := hlatch
  · simp [hkept, hrun] at hr
  · rw [← hr, State.setFault_fault]

end

/-- Settles O12: by the stage in which the table finds a fault, or by the instruction where it finds none. -/
theorem cycleFaultsExactlyAsTabled : Obligations.CycleFaultsExactlyAsTabled := by
  unfold Obligations.CycleFaultsExactlyAsTabled
  intro s hrun hsp
  exact ⟨fun c hc => step_of_cycleFault_some hrun hc, step_of_cycleFault_none hrun hsp⟩

/-- Settles O11: the cycle runs on the state whose credit is paid, and its faults are precise. -/
theorem faultingCycleChangesNothingElse : Obligations.FaultingCycleChangesNothingElse := by
  unfold Obligations.FaultingCycleChangesNothingElse
  intro s t r hrun hstep hr
  exact eq_setFault_of_step (s := s.payCycle) hrun hstep hr

/-! ## A latched fault -/

theorem runFor_of_latched {s : State} {r : FaultRecord} {elapsed : Rat} (he : 0 ≤ elapsed) (h : s.fault = some r) :
    runFor elapsed s = .done s (.faulted r) := by
  have hok : elapsedOk elapsed = true := decide_eq_true he
  simp only [runFor, hok, if_true, h]

/-- Settles O10: a run finds the latch, and of the other transactions only the reset writes it. -/
theorem latchedCoreDoesNothingUntilReset : Obligations.LatchedCoreDoesNothingUntilReset := by
  unfold Obligations.LatchedCoreDoesNothingUntilReset
  intro s r hr
  refine ⟨step_of_latched hr, fun elapsed he => runFor_of_latched he hr, fun a t reply h => ?_⟩
  cases a with
  | reset cfg =>
    obtain ⟨-, rfl⟩ := resetCore_eq_done h
    exact .inr ⟨cfg, rfl, rfl⟩
  | load image =>
    obtain ⟨-, rfl⟩ := loadImage_eq_done h
    exact .inl hr
  | setKey k down =>
    obtain rfl := setKey_eq_done h
    exact .inl hr
  | run elapsed =>
    obtain ⟨-, rfl⟩ | ⟨-, hrun, -⟩ := runFor_eq_done h
    · exact .inl hr
    · simp [hr] at hrun
  | display | soundOn =>
    obtain ⟨rfl, -⟩ := TransactionOutcome.done.inj h
    exact .inl hr

end Sys2Proof.Machine
end

section
/-! The proofs for the timers, the clock adapter and the host interface (spec/60_exceptions.md R119 to R128): what a
tick does, what a run issues and how a fault ends it, and the transactions that read or are rejected. -/

namespace Sys2Proof.Machine

/-! ## Ticks and the sound flag -/

/-- Settles O53: each timer counts down by itself. -/
theorem tickSaturatesAtZero : Obligations.TickSaturatesAtZero := by
  unfold Obligations.TickSaturatesAtZero
  intro s
  exact ⟨countDown_toNat s.dt, countDown_toNat s.st, rfl⟩

section
variable {s t : State}

theorem soundOn_congr (h : t.st = s.st) : soundOn t = soundOn s := by
  rw [soundOn, h, soundOn]

theorem soundOn_tick : soundOn (tick s) = true ↔ s.st.toNat > 1 := by
  obtain ⟨-, hst, -⟩ := tickSaturatesAtZero s
  rw [soundOn_eq_true, hst]
  omega

/-- `Fx18` is the one instruction that may write `ST` (R21). -/
theorem mayWriteSt_eq_false {i : Instr} (h : ∀ x, i ≠ .ldSt x) : i.mayWriteSt = false := by
  cases i with
  | ldSt x => exact absurd rfl (h x)
  | _ => rfl

end

/-- Settles O54: the flag follows `ST`, which only `Fx18`, the ticks, the cycles of a run and a reset write. -/
theorem soundFlagTransitions : Obligations.SoundFlagTransitions := by
  unfold Obligations.SoundFlagTransitions
  intro s
  refine ⟨rfl, soundOn_eq_true, soundOn_tick, fun x t h => ?_, fun i t hi h => ?_, fun cfg t reply h => ?_,
    fun a t reply hreset hrun h => ?_⟩
  · obtain rfl := Host.Outcome.next.inj (exec_ldSt.symm.trans h)
    exact soundOn_eq_true
  · obtain ⟨-, -, -, hst⟩ := frameOfStackAndTimers i s t h
    exact soundOn_congr (hst (mayWriteSt_eq_false hi))
  · obtain ⟨-, rfl⟩ := resetCore_eq_done h
    rfl
  · obtain ⟨-, -, hkept⟩ := ownershipOfState a s t reply h hreset
    obtain ⟨-, -, -, -, -, -, -, hst, -⟩ := hkept hrun
    exact soundOn_congr hst

/-! ## The display view -/

/-- The view is the display laid out row after row. -/
theorem displayCells_eq_flatten (s : State) : displayCells s = s.display.flatten.toList := by
  simp [displayCells, Vector.flatten, List.flatMap, Vector.toList, Function.comp_def]

/-- Settles O55: cell `64 * r + c` of the rows laid out is in row `r`, at place `c`. -/
theorem displayViewIsRowMajor : Obligations.DisplayViewIsRowMajor := by
  unfold Obligations.DisplayViewIsRowMajor
  intro s
  refine ⟨displayCells s, rfl, ?_, fun r c => ?_⟩
  · rw [displayCells_eq_flatten, Vector.length_toList]
  · have hlt : 64 * r.val + c.val < 32 * 64 := by omega
    have hrow : (64 * r.val + c.val) / 64 = r.val := by omega
    have hcol : (64 * r.val + c.val) % 64 = c.val := by omega
    rw [displayCells_eq_flatten, Vector.getElem?_toList, Vector.getElem?_eq_getElem hlt, Vector.getElem_flatten]
    simp only [hrow, hcol, Display.cell]

/-! ## A run without a fault -/

section
variable {s t u : State} {elapsed : Rat}

theorem finishRun_eq_ok (h : finishRun s = .done t .ok) :
    s.fault = none ∧ t = runTicks (wholeCredits s.timerCredit) s := by
  cases hf : s.fault with
  | some r => simp [finishRun, hf] at h
  | none => exact ⟨rfl, by simpa [finishRun, hf, eq_comm] using h⟩

theorem finishRun_eq_faulted {r : FaultRecord} (h : finishRun s = .done t (.faulted r)) :
    t = s ∧ s.fault = some r := by
  cases hf : s.fault with
  | some r' => simpa [finishRun, hf, eq_comm] using h
  | none => simp [finishRun, hf] at h

/-- A run without a fault starts with a clear latch, and all its cycles and then all its ticks take place (R123). -/
theorem runFor_eq_ok (he : 0 ≤ elapsed) (h : runFor elapsed s = .done t .ok) :
    s.fault = none ∧
      ∃ u, runCycles (issuedCycles elapsed s) ((s.accrue elapsed).setSession .started) = .next u ∧ u.fault = none ∧
        t = runTicks (issuedTicks elapsed s) u := by
  obtain ⟨hlatched, -⟩ | ⟨-, hrun, u, hcycles, hfinish⟩ := runFor_eq_done h
  · obtain ⟨r, hr⟩ := Option.ne_none_iff_exists'.mp hlatched
    simp [runFor_of_latched he hr] at h
  · obtain ⟨hclear, hticks⟩ := finishRun_eq_ok hfinish
    obtain ⟨-, htimer, -⟩ := runFor_cycles hcycles
    rw [htimer] at hticks
    exact ⟨hrun, u, hcycles, hclear, hticks⟩

/-- The credits after a run without a fault: what the time adds less the whole units issued, a fraction (R123). -/
theorem credits_of_runFor_ok (he : 0 ≤ elapsed) (hs : s.ClockInv) (h : runFor elapsed s = .done t .ok) :
    t.cycleCredit = s.cycleCredit + elapsed / s.period - issuedCycles elapsed s ∧
      t.timerCredit = s.timerCredit + elapsed * 60 - issuedTicks elapsed s ∧
      t.cycleCredit < 1 ∧ t.timerCredit < 1 := by
  obtain ⟨-, -, -, hbelow⟩ := hs.of_runFor h
  obtain ⟨-, u, hcycles, hclear, rfl⟩ := runFor_eq_ok he h
  obtain ⟨-, htimer, k, -, hall, hcycle⟩ := runFor_cycles hcycles
  rw [hall hclear] at hcycle
  rw [runTicks_eq] at hbelow ⊢
  obtain ⟨hc1, ht1⟩ := hbelow hclear
  refine ⟨hcycle, ?_, hc1, ht1⟩
  rw [State.setCredits_timerCredit, htimer]

end

/-- Settles O56: no cycle touches the credits or the session beyond the payment, and the ticks touch the timers and
their credit alone. -/
theorem runIssuesWholeCredits : Obligations.RunIssuesWholeCredits := by
  unfold Obligations.RunIssuesWholeCredits
  intro elapsed s t he hs h
  obtain ⟨hcycle, htimer, hc1, ht1⟩ := credits_of_runFor_ok he hs h
  obtain ⟨-, hc0, ht0, -⟩ := hs.of_runFor h
  obtain ⟨-, u, hcycles, hclear, hticks⟩ := runFor_eq_ok he h
  obtain ⟨k, -, -, -, -, -, -, -, -, -, hsession⟩ := runCycles_sameOutside hcycles
  have ht := hticks.trans (runTicks_eq _ u)
  refine ⟨hcycle, hc0, hc1, htimer, ht0, ht1, ?_, u, hcycles, hclear, hticks, ?_, ?_, ?_⟩
  · rw [ht]
    exact hsession
  · rw [ht]
    exact iterate_countDown_toNat _ u.dt
  · rw [ht]
    exact iterate_countDown_toNat _ u.st
  · rw [ht]
    rfl

/-! ## A series of runs -/

/-- A counter between runs: a fraction of a unit (R28). -/
def IsFraction (credit : Rat) : Prop := 0 ≤ credit ∧ credit < 1

/-- The whole part of a number that is a count and a fraction. -/
theorem floor_of_isFraction {n : Nat} {credit total : Rat} (hf : IsFraction credit) (h : n + credit = total) :
    (n : Int) = Rat.floor total := by
  obtain ⟨h0, h1⟩ := hf
  refine (Int.floor_eq_iff.mpr ⟨?_, ?_⟩ : ⌊total⌋ = (n : Int)).symm
  · push_cast
    linarith
  · push_cast
    linarith

/-- One more run of a series takes place without a fault before the others follow. -/
theorem runSeries_cons {d : Rat} {ds : List Rat} {s u : State} {n m : Nat}
    (h : runSeries (d :: ds) s = some (n, m, u)) :
    ∃ t n' m', runFor d s = .done t .ok ∧ runSeries ds t = some (n', m', u) ∧
      n = issuedCycles d s + n' ∧ m = issuedTicks d s + m' := by
  simp only [runSeries] at h
  split at h
  · next t hrun =>
    split at h
    · next n' m' u' hrest =>
      obtain ⟨rfl, rfl, rfl⟩ : _ = n ∧ _ = m ∧ u' = u := by simpa using h
      exact ⟨t, n', m', hrun, hrest, rfl, rfl⟩
    · nomatch h
  · nomatch h

/-- Nothing is lost or gained between the runs of a series: the units issued and the credit left are together the
credit it began with and what all of its time adds (R124). -/
theorem runSeries_conserves {slices : List Rat} {s u : State} {n m : Nat} (hp : 0 < s.period)
    (hc : IsFraction s.cycleCredit) (ht : IsFraction s.timerCredit) (hslices : ∀ d ∈ slices, 0 ≤ d)
    (h : runSeries slices s = some (n, m, u)) :
    (n + u.cycleCredit = s.cycleCredit + slices.sum / s.period ∧ IsFraction u.cycleCredit) ∧
      (m + u.timerCredit = s.timerCredit + slices.sum * 60 ∧ IsFraction u.timerCredit) := by
  induction slices generalizing s n m with
  | nil =>
    obtain ⟨rfl, rfl, rfl⟩ : 0 = n ∧ 0 = m ∧ s = u := by simpa [runSeries] using h
    exact ⟨⟨by simp, hc⟩, ⟨by simp, ht⟩⟩
  | cons d ds ih =>
    obtain ⟨t, n', m', hrun, hrest, rfl, rfl⟩ := runSeries_cons h
    have hd : 0 ≤ d := hslices d (by simp)
    have hs : s.ClockInv := ⟨hp, hc.1, ht.1, fun _ => ⟨hc.2, ht.2⟩⟩
    obtain ⟨hcycle, htimer, hc1, ht1⟩ := credits_of_runFor_ok hd hs hrun
    obtain ⟨hp', hc0, ht0, -⟩ := hs.of_runFor hrun
    obtain ⟨-, -, -, -, hperiod⟩ := runFor_keeps hrun
    obtain ⟨⟨hn, huc⟩, ⟨hm, hut⟩⟩ := ih hp' ⟨hc0, hc1⟩ ⟨ht0, ht1⟩ (fun d' hd' => hslices d' (by simp [hd'])) hrest
    refine ⟨⟨?_, huc⟩, ⟨?_, hut⟩⟩
    · rw [hcycle, hperiod] at hn
      rw [List.sum_cons, add_div]
      push_cast
      linarith
    · rw [htimer] at hm
      rw [List.sum_cons, add_mul]
      push_cast
      linarith

/-- Settles O57: credits of 0 leave the whole time to the units issued and a fraction. -/
theorem ratesAreIndependentOfTheSlicing : Obligations.RatesAreIndependentOfTheSlicing := by
  unfold Obligations.RatesAreIndependentOfTheSlicing
  intro slices s u n m hp hc ht hslices h
  have hzero : IsFraction 0 := ⟨le_rfl, zero_lt_one⟩
  obtain ⟨⟨hn, huc⟩, ⟨hm, hut⟩⟩ := runSeries_conserves hp (hc ▸ hzero) (ht ▸ hzero) hslices h
  rw [hc, zero_add] at hn
  rw [ht, zero_add] at hm
  exact ⟨floor_of_isFraction huc hn, floor_of_isFraction hut hm⟩

/-! ## A run that a fault ends -/

/-- Cycles that end with a latched fault: some complete, and the next one latches it (R125). -/
theorem runCycles_faulted {n : Nat} {s t : State} {r : FaultRecord} (hrun : s.fault = none)
    (h : runCycles n s = .next t) (hr : t.fault = some r) :
    ∃ k u, k < n ∧ runCycles k s = .next u ∧ u.fault = none ∧ step u.payCycle = .next t := by
  induction n generalizing s with
  | zero =>
    obtain rfl : s = t := by simpa [runCycles] using h
    simp [hrun] at hr
  | succ n ih =>
    obtain ⟨v, hstep, ⟨-, rfl⟩ | ⟨hv, hrest⟩⟩ := runCycles_succ h
    · exact ⟨0, s, n.succ_pos, rfl, hrun, hstep⟩
    · obtain ⟨k, u, hk, hcycles, hu, hlast⟩ := ih hv hrest
      exact ⟨k + 1, u, Nat.succ_lt_succ hk, (runCycles_succ_of_step hstep hv).trans hcycles, hu, hlast⟩

/-- Settles O58: the cycles before the fault pay one credit each, and the faulting one is precise. -/
theorem faultEndsTheRun : Obligations.FaultEndsTheRun := by
  unfold Obligations.FaultEndsTheRun
  intro elapsed s t r _ hrun h
  obtain ⟨hlatched, -⟩ | ⟨-, -, t', hcycles, hfinish⟩ := runFor_eq_done h
  · exact absurd hrun hlatched
  obtain ⟨rfl, hr⟩ := finishRun_eq_faulted hfinish
  obtain ⟨k, u, hk, hbefore, hu, hlast⟩ :=
    runCycles_faulted (s := (s.accrue elapsed).setSession .started) hrun hcycles hr
  have hprecise := eq_setFault_of_step (s := u.payCycle) hu hlast hr
  obtain ⟨k', -, hall, -, -, -, -, -, hcycle, htimer, -⟩ := runCycles_sameOutside hbefore
  obtain rfl : k' = k := hall hu
  have hcredit : u.cycleCredit = s.cycleCredit + elapsed / s.period - k' := hcycle
  refine ⟨k', u, hk, hbefore, hu, hlast, hr, hprecise, ?_, ?_⟩
  · rw [hprecise]
    change u.cycleCredit - 1 = _
    rw [hcredit, sub_sub]
  · rw [hprecise]
    exact htimer

/-! ## Key sets and rejected transactions -/

/-- The logical keys are 0 to 15 (R126). -/
theorem keyOk_eq_true {k : Nat} : keyOk k = true ↔ k ≤ 15 := decide_eq_true_iff

/-- An image fits exactly when it has at most 3584 bytes (R134). -/
theorem imageFits_eq_true {len : Nat} : imageFits len = true ↔ len ≤ 3584 := by
  rw [imageFits, decide_eq_true_iff]
  omega

/-- Settles O52: a number of at most 15 is its own key number. -/
theorem setKeySetsOneLevel : Obligations.SetKeySetsOneLevel := by
  unfold Obligations.SetKeySetsOneLevel
  intro k down s
  refine ⟨fun hle => ?_, fun hgt => if_neg fun h => not_le.mpr hgt (keyOk_eq_true.mp h)⟩
  have hfin : Fin.ofNat 16 k = ⟨k, by omega⟩ := Fin.ext (Nat.mod_eq_of_lt (by omega))
  refine ⟨s.setKeyLevel (Fin.ofNat 16 k) down, if_pos (keyOk_eq_true.mpr hle), ?_, fun j hj => ?_, rfl⟩
  · rw [hfin, State.key_setKeyLevel, if_pos rfl]
  · rw [hfin, State.key_setKeyLevel, if_neg fun h => hj (congrArg Fin.val h)]

section
variable {s t : State} {cause : Cause}

theorem loadImage_eq_rejected {image : List Byte} (h : loadImage image s = .rejected t cause) :
    t = s ∧ image.length > 3584 ∧ cause = .imageTooLarge image.length := by
  unfold loadImage at h
  split at h
  · split at h
    · nomatch h
    · next hfits =>
      obtain ⟨rfl, rfl⟩ := TransactionOutcome.rejected.inj h
      exact ⟨rfl, not_le.mp fun hle => hfits (imageFits_eq_true.mpr hle), rfl⟩
  · nomatch h

theorem setKey_eq_rejected {k : Nat} {down : Bool} (h : setKey k down s = .rejected t cause) :
    t = s ∧ k > 15 ∧ cause = .unknownKey k := by
  unfold setKey at h
  split at h
  · nomatch h
  · next hkey =>
    obtain ⟨rfl, rfl⟩ := TransactionOutcome.rejected.inj h
    exact ⟨rfl, not_le.mp fun hle => hkey (keyOk_eq_true.mpr hle), rfl⟩

theorem resetCore_ne_rejected {cfg : SessionConfig} : resetCore cfg s ≠ .rejected t cause := by
  unfold resetCore
  split <;> nofun

theorem finishRun_ne_rejected : finishRun s ≠ .rejected t cause := by
  unfold finishRun
  split <;> nofun

theorem runFor_ne_rejected {elapsed : Rat} : runFor elapsed s ≠ .rejected t cause := by
  unfold runFor
  split
  · split
    · nofun
    · split
      · exact finishRun_ne_rejected
      · nofun
      · nofun
  · nofun

/-- Only a load and a key set are ever rejected, each for its own bound (R119). -/
theorem transact_eq_rejected {a : Transaction} (h : transact a s = .rejected t cause) :
    t = s ∧
      ((∃ image, a = .load image ∧ image.length > 3584 ∧ cause = .imageTooLarge image.length) ∨
        ∃ k down, a = .setKey k down ∧ k > 15 ∧ cause = .unknownKey k) := by
  cases a with
  | reset cfg => exact absurd h resetCore_ne_rejected
  | load image =>
    obtain ⟨hsame, hlong, hcause⟩ := loadImage_eq_rejected h
    exact ⟨hsame, .inl ⟨image, rfl, hlong, hcause⟩⟩
  | setKey k down =>
    obtain ⟨hsame, hgt, hcause⟩ := setKey_eq_rejected h
    exact ⟨hsame, .inr ⟨k, down, rfl, hgt, hcause⟩⟩
  | run elapsed => exact absurd h runFor_ne_rejected
  | display | soundOn => nomatch h

end

/-- Settles O60: the session goes on from the state that the rejected transaction hands back, the one before it. -/
theorem rejectedTransactionChangesNothing : Obligations.RejectedTransactionChangesNothing := by
  unfold Obligations.RejectedTransactionChangesNothing
  intro a s t cause h
  obtain ⟨rfl, hcause⟩ := transact_eq_rejected h
  refine ⟨rfl, hcause, fun rest => ?_⟩
  simp only [transactAll, h]

end Sys2Proof.Machine
end

section
/-! The proofs for reset and load (spec/70_reset_and_hazards.md): a reset that takes place answers the restarted state,
whose fields are read off one by one, and a load answers a memory whose bytes are read off the image. -/

namespace Sys2Proof.Machine

/-- A reset with an accepted configuration takes place (R127, R132). -/
theorem transact_reset_of_wellFormed {cfg : SessionConfig} (s : State) (h : cfg.wellFormed = true) :
    transact (.reset cfg) s = .done (s.restart cfg) .ok :=
  if_pos h

section
variable {s : State} {cfg : SessionConfig}

theorem byteAt_restart (a : Nat) : (s.restart cfg).byteAt a = fontByte cfg.font a := by
  rw [State.byteAt, State.restart_mem, Memory.read_ofFont]

theorem getV_restart (r : Reg) : (s.restart cfg).getV r = 0 := by
  simp [State.getV]

theorem stackEntry_restart {k : Nat} (hk : k < 16) : (s.restart cfg).stackEntry k = some 0 := by
  simp [State.stackEntry, hk]

theorem key_restart (k : Reg) : (s.restart cfg).key k = false := by
  simp [State.key]

end

/-- Settles O49: the memory after reset is the font and, past it, zero. -/
theorem resetStatedValues : Obligations.ResetStatedValues := by
  unfold Obligations.ResetStatedValues
  intro cfg s h
  refine ⟨_, transact_reset_of_wellFormed s h, rfl, rfl, rfl, rfl, rfl, Display.cell_clear, fun d k => ?_,
    fun a ha => ?_, rfl, rfl, rfl, rfl⟩
  · rw [byteAt_restart, fontByte_glyph]
  · rw [byteAt_restart, fontByte_of_ge _ a ha]

/-- Settles O50, field by field of the restarted state. -/
theorem resetChosenValues : Obligations.ResetChosenValues := by
  unfold Obligations.ResetChosenValues
  intro cfg s h
  exact ⟨_, transact_reset_of_wellFormed s h, getV_restart, rfl, fun k hk => stackEntry_restart hk, key_restart, rfl,
    rfl, rfl, rfl⟩

/-! ## Load -/

section
variable {s : State} {image : List Byte}

theorem transact_load_of_fits (hfresh : s.session = .fresh) (hfits : image.length ≤ 3584) :
    transact (.load image) s = .done ((s.setMem (s.mem.writeBytes 0x200 image)).setSession .loaded) .ok := by
  simp only [transact, loadImage, hfresh, if_true, imageFits_eq_true.mpr hfits]

theorem transact_load_of_too_large (hfresh : s.session = .fresh) (hlong : image.length > 3584) :
    transact (.load image) s = .rejected s (.imageTooLarge image.length) := by
  have hfits : ¬ imageFits image.length = true := fun h => absurd (imageFits_eq_true.mp h) (not_le.mpr hlong)
  simp only [transact, loadImage, hfresh, if_true, if_neg hfits]

theorem transact_load_of_not_fresh (h : s.session ≠ .fresh) :
    transact (.load image) s = .refused .loadOutOfOrder :=
  if_neg h

end

/-- Settles O51: the image ends inside the memory, so its bytes read as written and no other byte is touched. -/
theorem loadPlacesTheImage : Obligations.LoadPlacesTheImage := by
  unfold Obligations.LoadPlacesTheImage
  intro image s hm
  refine ⟨fun hfresh hfits => ?_, transact_load_of_too_large, transact_load_of_not_fresh⟩
  have hread : ∀ a, (s.mem.writeBytes 0x200 image).read a =
      if 0x200 ≤ a ∧ a < 0x200 + image.length then image[a - 0x200]?.getD 0 else s.mem.read a :=
    fun a => Memory.read_writeBytes s.mem 0x200 a image hm (by omega)
  refine ⟨_, transact_load_of_fits hfresh hfits, fun k b hb => ?_, fun a ha => ?_, rfl,
    fun again => transact_load_of_not_fresh (by simp)⟩
  · have hk : k < image.length := (List.getElem?_eq_some_iff.mp hb).1
    refine (hread (0x200 + k)).trans ?_
    rw [if_pos (by omega), Nat.add_sub_cancel_left, hb, Option.getD_some]
  · exact (hread a).trans (if_neg (by omega))

end Sys2Proof.Machine
end
